-- ==== Sys2Proof/Word.lean ====
section
/-! DEFINITION. The word types of the core and their two readings (`00_scope.md` R7, R8). Every register, address and
memory byte is 8 bits wide; arithmetic on them is `BitVec` arithmetic, which wraps modulo 256 (`10_state.md` R21). -/

namespace Sys2Proof

/-- An 8-bit value: a register, an address within a segment, a memory byte. -/
abbrev Byte := BitVec 8

/-- A 4-bit value: a branch code or the packed flags. -/
abbrev Nibble := BitVec 4

/-- The unsigned reading u8 of `00_scope.md` R8, 0 to 255. -/
abbrev u8 (v : Byte) : Nat := v.toNat

/-- The two's-complement reading s8 of `00_scope.md` R8, -128 to 127. -/
abbrev s8 (v : Byte) : Int := v.toInt

/-- trunc8 of `00_scope.md` R8: the bit pattern of an integer modulo 256. -/
abbrev trunc8 (n : Int) : Byte := BitVec.ofInt 8 n

end Sys2Proof
end

