-- ==== Sys2Proof/Syntax.lean ====
section
/-! DEFINITION. The instructions of the core: the spec's closed variant (`30_encoding.md` R70) and `Instr`, which has
one constructor for each mnemonic of the opcode table. The operand byte of a two-byte instruction is no part of
either: the decoder reads one byte (R71) and the operand is fetched by the instruction's own phases (log 20). -/

namespace Sys2Proof

/-- The register selector r, `10_state.md` R23: 0 is the accumulator, 1 the index register. -/
inductive Reg where
  | acc
  | ix
  deriving DecidableEq, Repr

/-- ShiftMode, `30_encoding.md` R79: right-arithmetic, left-arithmetic, right-logical, left-logical. -/
inductive ShiftMode where
  | ra
  | la
  | rl
  | ll
  deriving DecidableEq, Repr

/-- LoadAddressingMode, `30_encoding.md` R77: accumulator-direct, index-direct, immediate, absolute-text,
absolute-data, relative-text, relative-data. -/
inductive LoadMode where
  | accd
  | ixd
  | imm
  | abst
  | absd
  | relt
  | reld
  deriving DecidableEq, Repr

/-- StoreAddressingMode, `30_encoding.md` R78: a store always targets memory. -/
inductive StoreMode where
  | abst
  | absd
  | relt
  | reld
  deriving DecidableEq, Repr

/-- The eight binary operations, `30_encoding.md` R70. -/
inductive BinOp where
  | sbc
  | adc
  | sub
  | add
  | eor
  | or
  | and
  | cmp
  deriving DecidableEq, Repr

/-- BranchCondition: the sixteen predicates of `42_control_io.md` R158 to R173, by the source's names. -/
inductive Cond where
  | always
  | notZero
  | notNegative
  | positive
  | inputEmpty
  | carryClear
  | signedGe
  | signedGt
  | overflow
  | zero
  | negative
  | zeroOrNegative
  | outputEmpty
  | carrySet
  | signedLt
  | signedLe
  deriving DecidableEq, Repr

/-- The closed variant of `30_encoding.md` R70, constructor for constructor. -/
inductive Variant where
  | nop
  | hlt
  | out
  | inp
  | rcf
  | scf
  | b (c : Cond)
  | sh (r : Reg) (m : ShiftMode)
  | rot (r : Reg) (m : ShiftMode)
  | ld (r : Reg) (m : LoadMode)
  | st (r : Reg) (m : StoreMode)
  | bin (op : BinOp) (r : Reg) (m : LoadMode)
  deriving DecidableEq, Repr

/-- The instructions, one constructor for each mnemonic of the opcode table. HLT's two rows are the same value
(`42_control_io.md` R152; log 18). Suffixes name the addressing mode: `Acc` accumulator-direct, `Ix` index-direct,
`Imm` immediate, `Abst`, `Absd`, `Relt`, `Reld` the four memory modes. -/
inductive Instr where
  | nop
  | hlt
  | out
  | inp
  | rcf
  | scf
  | ba
  | bnz
  | bzp
  | bp
  | bni
  | bnc
  | bge
  | bgt
  | bvf
  | bz
  | bn
  | bzn
  | bno
  | bc
  | blt
  | ble
  | sra (r : Reg)
  | sla (r : Reg)
  | srl (r : Reg)
  | sll (r : Reg)
  | rra (r : Reg)
  | rla (r : Reg)
  | rrl (r : Reg)
  | rll (r : Reg)
  | ldAcc (r : Reg)
  | ldIx (r : Reg)
  | ldImm (r : Reg)
  | ldAbst (r : Reg)
  | ldAbsd (r : Reg)
  | ldRelt (r : Reg)
  | ldReld (r : Reg)
  | stAbst (r : Reg)
  | stAbsd (r : Reg)
  | stRelt (r : Reg)
  | stReld (r : Reg)
  | sbcAcc (r : Reg)
  | sbcIx (r : Reg)
  | sbcImm (r : Reg)
  | sbcAbst (r : Reg)
  | sbcAbsd (r : Reg)
  | sbcRelt (r : Reg)
  | sbcReld (r : Reg)
  | adcAcc (r : Reg)
  | adcIx (r : Reg)
  | adcImm (r : Reg)
  | adcAbst (r : Reg)
  | adcAbsd (r : Reg)
  | adcRelt (r : Reg)
  | adcReld (r : Reg)
  | subAcc (r : Reg)
  | subIx (r : Reg)
  | subImm (r : Reg)
  | subAbst (r : Reg)
  | subAbsd (r : Reg)
  | subRelt (r : Reg)
  | subReld (r : Reg)
  | addAcc (r : Reg)
  | addIx (r : Reg)
  | addImm (r : Reg)
  | addAbst (r : Reg)
  | addAbsd (r : Reg)
  | addRelt (r : Reg)
  | addReld (r : Reg)
  | eorAcc (r : Reg)
  | eorIx (r : Reg)
  | eorImm (r : Reg)
  | eorAbst (r : Reg)
  | eorAbsd (r : Reg)
  | eorRelt (r : Reg)
  | eorReld (r : Reg)
  | orAcc (r : Reg)
  | orIx (r : Reg)
  | orImm (r : Reg)
  | orAbst (r : Reg)
  | orAbsd (r : Reg)
  | orRelt (r : Reg)
  | orReld (r : Reg)
  | andAcc (r : Reg)
  | andIx (r : Reg)
  | andImm (r : Reg)
  | andAbst (r : Reg)
  | andAbsd (r : Reg)
  | andRelt (r : Reg)
  | andReld (r : Reg)
  | cmpAcc (r : Reg)
  | cmpIx (r : Reg)
  | cmpImm (r : Reg)
  | cmpAbst (r : Reg)
  | cmpAbsd (r : Reg)
  | cmpRelt (r : Reg)
  | cmpReld (r : Reg)
  deriving DecidableEq, Repr

/-- The instruction as a value of the closed variant of `30_encoding.md` R70. -/
def Instr.variant : Instr → Variant
  | .nop => .nop
  | .hlt => .hlt
  | .out => .out
  | .inp => .inp
  | .rcf => .rcf
  | .scf => .scf
  | .ba => .b .always
  | .bnz => .b .notZero
  | .bzp => .b .notNegative
  | .bp => .b .positive
  | .bni => .b .inputEmpty
  | .bnc => .b .carryClear
  | .bge => .b .signedGe
  | .bgt => .b .signedGt
  | .bvf => .b .overflow
  | .bz => .b .zero
  | .bn => .b .negative
  | .bzn => .b .zeroOrNegative
  | .bno => .b .outputEmpty
  | .bc => .b .carrySet
  | .blt => .b .signedLt
  | .ble => .b .signedLe
  | .sra r => .sh r .ra
  | .sla r => .sh r .la
  | .srl r => .sh r .rl
  | .sll r => .sh r .ll
  | .rra r => .rot r .ra
  | .rla r => .rot r .la
  | .rrl r => .rot r .rl
  | .rll r => .rot r .ll
  | .ldAcc r => .ld r .accd
  | .ldIx r => .ld r .ixd
  | .ldImm r => .ld r .imm
  | .ldAbst r => .ld r .abst
  | .ldAbsd r => .ld r .absd
  | .ldRelt r => .ld r .relt
  | .ldReld r => .ld r .reld
  | .stAbst r => .st r .abst
  | .stAbsd r => .st r .absd
  | .stRelt r => .st r .relt
  | .stReld r => .st r .reld
  | .sbcAcc r => .bin .sbc r .accd
  | .sbcIx r => .bin .sbc r .ixd
  | .sbcImm r => .bin .sbc r .imm
  | .sbcAbst r => .bin .sbc r .abst
  | .sbcAbsd r => .bin .sbc r .absd
  | .sbcRelt r => .bin .sbc r .relt
  | .sbcReld r => .bin .sbc r .reld
  | .adcAcc r => .bin .adc r .accd
  | .adcIx r => .bin .adc r .ixd
  | .adcImm r => .bin .adc r .imm
  | .adcAbst r => .bin .adc r .abst
  | .adcAbsd r => .bin .adc r .absd
  | .adcRelt r => .bin .adc r .relt
  | .adcReld r => .bin .adc r .reld
  | .subAcc r => .bin .sub r .accd
  | .subIx r => .bin .sub r .ixd
  | .subImm r => .bin .sub r .imm
  | .subAbst r => .bin .sub r .abst
  | .subAbsd r => .bin .sub r .absd
  | .subRelt r => .bin .sub r .relt
  | .subReld r => .bin .sub r .reld
  | .addAcc r => .bin .add r .accd
  | .addIx r => .bin .add r .ixd
  | .addImm r => .bin .add r .imm
  | .addAbst r => .bin .add r .abst
  | .addAbsd r => .bin .add r .absd
  | .addRelt r => .bin .add r .relt
  | .addReld r => .bin .add r .reld
  | .eorAcc r => .bin .eor r .accd
  | .eorIx r => .bin .eor r .ixd
  | .eorImm r => .bin .eor r .imm
  | .eorAbst r => .bin .eor r .abst
  | .eorAbsd r => .bin .eor r .absd
  | .eorRelt r => .bin .eor r .relt
  | .eorReld r => .bin .eor r .reld
  | .orAcc r => .bin .or r .accd
  | .orIx r => .bin .or r .ixd
  | .orImm r => .bin .or r .imm
  | .orAbst r => .bin .or r .abst
  | .orAbsd r => .bin .or r .absd
  | .orRelt r => .bin .or r .relt
  | .orReld r => .bin .or r .reld
  | .andAcc r => .bin .and r .accd
  | .andIx r => .bin .and r .ixd
  | .andImm r => .bin .and r .imm
  | .andAbst r => .bin .and r .abst
  | .andAbsd r => .bin .and r .absd
  | .andRelt r => .bin .and r .relt
  | .andReld r => .bin .and r .reld
  | .cmpAcc r => .bin .cmp r .accd
  | .cmpIx r => .bin .cmp r .ixd
  | .cmpImm r => .bin .cmp r .imm
  | .cmpAbst r => .bin .cmp r .abst
  | .cmpAbsd r => .bin .cmp r .absd
  | .cmpRelt r => .bin .cmp r .relt
  | .cmpReld r => .bin .cmp r .reld

/-- The constructor of `Instr` for a branch condition. -/
def Cond.toInstr : Cond → Instr
  | .always => .ba
  | .notZero => .bnz
  | .notNegative => .bzp
  | .positive => .bp
  | .inputEmpty => .bni
  | .carryClear => .bnc
  | .signedGe => .bge
  | .signedGt => .bgt
  | .overflow => .bvf
  | .zero => .bz
  | .negative => .bn
  | .zeroOrNegative => .bzn
  | .outputEmpty => .bno
  | .carrySet => .bc
  | .signedLt => .blt
  | .signedLe => .ble

/-- The constructor of `Instr` for a shift. -/
def ShiftMode.shiftInstr (r : Reg) : ShiftMode → Instr
  | .ra => .sra r
  | .la => .sla r
  | .rl => .srl r
  | .ll => .sll r

/-- The constructor of `Instr` for a rotate. -/
def ShiftMode.rotateInstr (r : Reg) : ShiftMode → Instr
  | .ra => .rra r
  | .la => .rla r
  | .rl => .rrl r
  | .ll => .rll r

/-- The constructor of `Instr` for a load. -/
def LoadMode.loadInstr (r : Reg) : LoadMode → Instr
  | .accd => .ldAcc r
  | .ixd => .ldIx r
  | .imm => .ldImm r
  | .abst => .ldAbst r
  | .absd => .ldAbsd r
  | .relt => .ldRelt r
  | .reld => .ldReld r

/-- The constructor of `Instr` for a store. -/
def StoreMode.storeInstr (r : Reg) : StoreMode → Instr
  | .abst => .stAbst r
  | .absd => .stAbsd r
  | .relt => .stRelt r
  | .reld => .stReld r

/-- The constructor of `Instr` for a binary operation. -/
def BinOp.binaryInstr (r : Reg) : BinOp → LoadMode → Instr
  | .sbc, .accd => .sbcAcc r
  | .sbc, .ixd => .sbcIx r
  | .sbc, .imm => .sbcImm r
  | .sbc, .abst => .sbcAbst r
  | .sbc, .absd => .sbcAbsd r
  | .sbc, .relt => .sbcRelt r
  | .sbc, .reld => .sbcReld r
  | .adc, .accd => .adcAcc r
  | .adc, .ixd => .adcIx r
  | .adc, .imm => .adcImm r
  | .adc, .abst => .adcAbst r
  | .adc, .absd => .adcAbsd r
  | .adc, .relt => .adcRelt r
  | .adc, .reld => .adcReld r
  | .sub, .accd => .subAcc r
  | .sub, .ixd => .subIx r
  | .sub, .imm => .subImm r
  | .sub, .abst => .subAbst r
  | .sub, .absd => .subAbsd r
  | .sub, .relt => .subRelt r
  | .sub, .reld => .subReld r
  | .add, .accd => .addAcc r
  | .add, .ixd => .addIx r
  | .add, .imm => .addImm r
  | .add, .abst => .addAbst r
  | .add, .absd => .addAbsd r
  | .add, .relt => .addRelt r
  | .add, .reld => .addReld r
  | .eor, .accd => .eorAcc r
  | .eor, .ixd => .eorIx r
  | .eor, .imm => .eorImm r
  | .eor, .abst => .eorAbst r
  | .eor, .absd => .eorAbsd r
  | .eor, .relt => .eorRelt r
  | .eor, .reld => .eorReld r
  | .or, .accd => .orAcc r
  | .or, .ixd => .orIx r
  | .or, .imm => .orImm r
  | .or, .abst => .orAbst r
  | .or, .absd => .orAbsd r
  | .or, .relt => .orRelt r
  | .or, .reld => .orReld r
  | .and, .accd => .andAcc r
  | .and, .ixd => .andIx r
  | .and, .imm => .andImm r
  | .and, .abst => .andAbst r
  | .and, .absd => .andAbsd r
  | .and, .relt => .andRelt r
  | .and, .reld => .andReld r
  | .cmp, .accd => .cmpAcc r
  | .cmp, .ixd => .cmpIx r
  | .cmp, .imm => .cmpImm r
  | .cmp, .abst => .cmpAbst r
  | .cmp, .absd => .cmpAbsd r
  | .cmp, .relt => .cmpRelt r
  | .cmp, .reld => .cmpReld r

/-- The instruction of a value of the closed variant: the inverse of `Instr.variant`. -/
def Variant.toInstr : Variant → Instr
  | .nop => .nop
  | .hlt => .hlt
  | .out => .out
  | .inp => .inp
  | .rcf => .rcf
  | .scf => .scf
  | .b c => c.toInstr
  | .sh r m => m.shiftInstr r
  | .rot r m => m.rotateInstr r
  | .ld r m => m.loadInstr r
  | .st r m => m.storeInstr r
  | .bin op r m => op.binaryInstr r m

/-- A register-direct mode takes its operand from a register and has no operand byte (`44_load_store.md` R200). -/
def LoadMode.isDirect : LoadMode → Bool
  | .accd | .ixd => true
  | .imm | .abst | .absd | .relt | .reld => false

/-- Whether the instruction has an operand byte: every branch, every store, and every load or binary operation whose
mode is not register-direct (`30_encoding.md` R73). -/
def Variant.hasOperandByte : Variant → Bool
  | .nop | .hlt | .out | .inp | .rcf | .scf => false
  | .b _ => true
  | .sh _ _ | .rot _ _ => false
  | .ld _ m => !m.isDirect
  | .st _ _ => true
  | .bin _ _ m => !m.isDirect

/-- The instruction's length in bytes, `30_encoding.md` R73. -/
def Instr.length (i : Instr) : Nat := if i.variant.hasOperandByte then 2 else 1

/-- One instruction as it stands in the text segment: the decoded opcode and its operand byte, if any. -/
structure CodeLine where
  instr : Instr
  operand : Option Byte
  deriving DecidableEq, Repr

end Sys2Proof
end

