-- ==== Sys2Proof/Config.lean ====
section
/-! DEFINITION. The named parameters of the spec (`00_scope.md` R6). They are arguments of the parametric machine
(`Machine/Parametric.lean`); the settings the fixed-name machine runs are `Params.standard` in `Machine/Settings.lean`,
the defaults the spec gives. The one parameter without a default is an opaque constant here. -/

namespace Sys2Proof

/-- ALU_WIDEN (`40_alu.md` R112): how `compute` widens its 8-bit inputs. -/
inductive AluWiden where
  | signed
  | unsigned
  deriving DecidableEq, Repr

/-- The two memory segments (`20_memory.md` R50, R51). -/
inductive Segment where
  | text
  | data
  deriving DecidableEq, Repr

/-- The five phases (`10_state.md` R31). -/
inductive Phase where
  | p0
  | p1
  | p2
  | p3
  | p4
  deriving DecidableEq, Repr

/-- PHASE_AFTER_DECODE_FAULT (`41_phase_engine.md` R136): whether the failing p1 step advances the phase. -/
inductive PhaseAfterDecodeFault where
  | staysP1
  | advancesToP2
  deriving DecidableEq, Repr, Inhabited

/-- The parameters the model takes as arguments (`00_scope.md` R6). -/
structure Params where
  /-- BCOND_MAP (`30_encoding.md` R80): the predicate each branch code selects. -/
  bcondMap : Nibble → Cond
  /-- ALU_WIDEN (`40_alu.md` R112). -/
  aluWiden : AluWiden
  /-- BINOP_DATA_OPERAND_SEGMENT (`45_binary_ops.md` R222). -/
  binopDataOperandSegment : Segment
  /-- PHASE_AFTER_DECODE_FAULT (`41_phase_engine.md` R136). -/
  phaseAfterDecodeFault : PhaseAfterDecodeFault
  /-- HOST_MAY_CLEAR_OBUF_READY (`60_exceptions.md` R261). -/
  hostMayClearObufReady : Bool

/-- PHASE_AFTER_DECODE_FAULT has no default: nothing is known of this constant, so a claim that uses it holds for both
values (`92_eei_decisions.md` D6; log 5). -/
opaque Config.phaseAfterDecodeFault : PhaseAfterDecodeFault

end Sys2Proof
end

