-- ==== Sys2Proof/Machine/State.lean ====
section
/-! DEFINITION. The whole state of the core: the ten fields of ProcessorState (`10_state.md` R20), as plain data; the
reasons a step can stop; and the state after reset. -/

namespace Sys2Proof.Machine

/-- The four flags (`10_state.md` R28). -/
structure Flags where
  /-- ZF, zero. -/
  zf : Bool
  /-- NF, negative. -/
  nf : Bool
  /-- VF, overflow. -/
  vf : Bool
  /-- CF, carry. -/
  cf : Bool
  deriving DecidableEq, Repr

/-- A single-slot handshake buffer (`10_state.md` R33, R34). -/
structure Buffer where
  value : Byte
  ready : Bool
  deriving DecidableEq, Repr

/-- Memory as its listed cells, by physical address; an unlisted address reads as `Memory.unlisted`. The canonical form
is `Memory.wf` (log 17). -/
abbrev Memory := List Host.Cell

/-- ProcessorState: exactly ten fields (`10_state.md` R20). -/
structure State where
  /-- ACC, the accumulator (R22). -/
  acc : Byte
  /-- IX, the index register (R22). -/
  ix : Byte
  /-- PC, the program counter (R25). -/
  pc : Byte
  /-- MAR, the memory-address register (R26). -/
  mar : Byte
  /-- IR, the currently decoded instruction, or "no instruction" (R27, R38; log 7). -/
  ir : Option Instr
  /-- FLAGS (R28). -/
  flags : Flags
  /-- PHASE (R31). -/
  phase : Phase
  /-- MEM (R32). -/
  mem : Memory
  /-- OBUF, the output buffer (R34). -/
  obuf : Buffer
  /-- IBUF, the input buffer (R33). -/
  ibuf : Buffer
  deriving DecidableEq, Repr

/-- Why a step stops with a fault. -/
inductive Fault where
  /-- Raised by phase p1 when the byte it fetches does not decode; carries that byte (`60_exceptions.md` R250). The core
  has no trap entry (R251) and no step is defined after it (R252; log 6). Safe: the model goes no further. -/
  | invalidInstruction (b : Byte)
  deriving DecidableEq, Repr

/-- Why a step or a host move is refused. -/
inductive Refusal where
  /-- An arm of `exec` without a meaning; no arm of this model raises it. Safe. -/
  | notModelled (mnemonic : String)
  /-- Raised by `step` in an execute phase while IR holds no instruction: no rule gives an effect there and no constructed
  state reaches it (`41_phase_engine.md` R140; log 7). Safe. -/
  | noInstruction
  /-- Raised by a session at a host move that HOST_MAY_CLEAR_OBUF_READY excludes (`60_exceptions.md` R258, R261; log 4).
  Safe. -/
  | hostMoveNotAllowed
  deriving DecidableEq, Repr

/-- What a step answers. -/
abbrev Answer := Host.Outcome State Fault Refusal

/-- The state right after construction from two empty images (`10_state.md` R38, `70_reset_and_hazards.md` R270):
registers, flags and buffers zero, phase p0, every memory byte 0x00, IR "no instruction" (log 7, log 15). -/
def State.reset : State where
  acc := 0x00#8
  ix := 0x00#8
  pc := 0x00#8
  mar := 0x00#8
  ir := none
  flags := { zf := false, nf := false, vf := false, cf := false }
  phase := .p0
  mem := []
  obuf := { value := 0x00#8, ready := false }
  ibuf := { value := 0x00#8, ready := false }

end Sys2Proof.Machine
end

