-- ==== Sys2Proof/Machine/Flags.lean ====
section
/-! DEFINITION. Every flag computation of the spec: the packing, the flags out of `compute` (`40_alu.md` R108 to R114),
the flags of a shift or rotate (`43_shift_rotate.md` R180), and the branch predicates (`42_control_io.md` R158 to R173). -/

namespace Sys2Proof.Machine

/-- The packing `CF ‖ VF ‖ NF ‖ ZF` (`10_state.md` R28). -/
def Flags.packed (f : Flags) : Nibble :=
  BitVec.ofBool f.cf ++ (BitVec.ofBool f.vf ++ (BitVec.ofBool f.nf ++ BitVec.ofBool f.zf))

/-- ZF of a result: result = 0x00 (`40_alu.md` R111). -/
def zeroFlag (result : Byte) : Bool := result == 0x00#8

/-- NF of a result: its bit 7 (`40_alu.md` R111). -/
def negativeFlag (result : Byte) : Bool := result.getLsbD 7

/-- widen(v) (`40_alu.md` R112). -/
def widen : AluWiden → Byte → Int
  | .signed, v => s8 v
  | .unsigned, v => (u8 v : Int)

/-- The carry rule: any of bits 15:8 of the widened result set (`40_alu.md` R108). -/
def carryOfWide (w : Int) : Bool := (BitVec.ofInt 16 w).extractLsb' 8 8 != 0#8

/-- The overflow rule, the addition-shaped test on the raw operand with strict comparisons, used for subtraction too
(`40_alu.md` R109; log 19). -/
def overflowFlag (base operand result : Byte) : Bool :=
  (decide (s8 base > 0) && decide (s8 operand > 0) && decide (s8 result < 0))
    || (decide (s8 base < 0) && decide (s8 operand < 0) && decide (s8 result > 0))

/-- The flags of an operation that writes the carry from the widened result: SBC, ADC, SUB, ADD (`40_alu.md` R114). -/
def arithmeticFlags (base operand result : Byte) (w : Int) : Flags :=
  { zf := zeroFlag result, nf := negativeFlag result, vf := overflowFlag base operand result, cf := carryOfWide w }

/-- The flags of CMP: as SUB, but the carry is unchanged (`40_alu.md` R108, R110). -/
def compareFlags (base operand result : Byte) (old : Flags) : Flags :=
  { zf := zeroFlag result, nf := negativeFlag result, vf := overflowFlag base operand result, cf := old.cf }

/-- The flags of EOR, OR, AND: overflow false, carry unchanged (`40_alu.md` R108, R109). -/
def logicFlags (result : Byte) (old : Flags) : Flags :=
  { zf := zeroFlag result, nf := negativeFlag result, vf := false, cf := old.cf }

/-- The flags a shift or rotate sets at p3 from the register's updated value (`43_shift_rotate.md` R180). -/
def shiftFlags (value : Byte) (old : Flags) : Flags :=
  { zf := zeroFlag value, nf := negativeFlag value, vf := false, cf := old.cf }

/-- The sixteen branch predicates over the flags and the two ready bits (`42_control_io.md` R158 to R173; "empty" is
ready = false, log 11). -/
def condHolds (c : Cond) (f : Flags) (inputReady outputReady : Bool) : Bool :=
  match c with
  | .always => true
  | .overflow => f.vf
  | .notZero => !f.zf
  | .zero => f.zf
  | .notNegative => !f.nf
  | .negative => f.nf
  | .positive => !f.nf && !f.zf
  | .zeroOrNegative => f.zf || f.nf
  | .inputEmpty => !inputReady
  | .outputEmpty => !outputReady
  | .carryClear => !f.cf
  | .carrySet => f.cf
  | .signedGe => !(f.vf ^^ f.nf)
  | .signedLt => f.vf ^^ f.nf
  | .signedGt => !(f.vf ^^ f.nf) && !f.zf
  | .signedLe => (f.vf ^^ f.nf) || f.zf

end Sys2Proof.Machine
end

