-- ==== Sys2Proof/Machine/Alu.lean ====
section
/-! DEFINITION. The arithmetic, shift and rotate unit: three pure functions (`40_alu.md` R100, R115, R120). -/

namespace Sys2Proof.Machine

/-- The carry-in as an integer (`40_alu.md` R100). -/
def carryIn (f : Flags) : Int := if f.cf then 1 else 0

/-- `compute(op, base, operand, flags)` (`40_alu.md` R100 to R114): the result and the four new flags. SBC adds the carry
(R101; log 19). -/
def compute (wd : AluWiden) (op : BinOp) (base operand : Byte) (f : Flags) : Byte × Flags :=
  let b := widen wd base
  let o := widen wd operand
  match op with
  | .sbc => let w := b - (o - carryIn f); (trunc8 w, arithmeticFlags base operand (trunc8 w) w)
  | .adc => let w := b + (o + carryIn f); (trunc8 w, arithmeticFlags base operand (trunc8 w) w)
  | .sub => let w := b - o; (trunc8 w, arithmeticFlags base operand (trunc8 w) w)
  | .add => let w := b + o; (trunc8 w, arithmeticFlags base operand (trunc8 w) w)
  | .eor => (base ^^^ operand, logicFlags (base ^^^ operand) f)
  | .or => (base ||| operand, logicFlags (base ||| operand) f)
  | .and => (base &&& operand, logicFlags (base &&& operand) f)
  | .cmp => let w := b - o; (trunc8 w, compareFlags base operand (trunc8 w) f)

/-- `shift(value, mode)` (`40_alu.md` R115 to R119): the result and the carry-out. -/
def shift (v : Byte) : ShiftMode → Byte × Bool
  | .ra => (BitVec.cons (v.getLsbD 7) (v.extractLsb' 1 7), v.getLsbD 0)
  | .la => (BitVec.cons (v.getLsbD 7) (BitVec.concat (v.extractLsb' 0 6) false), v.getLsbD 7)
  | .rl => (BitVec.cons false (v.extractLsb' 1 7), v.getLsbD 0)
  | .ll => (BitVec.concat (v.extractLsb' 0 7) false, v.getLsbD 7)

/-- `rotate(value, mode, carryIn)` (`40_alu.md` R120 to R124): the arithmetic modes rotate through the carry, the logical
modes rotate the byte alone. -/
def rotate (v : Byte) (m : ShiftMode) (cin : Bool) : Byte × Bool :=
  match m with
  | .ra => (BitVec.cons cin (v.extractLsb' 1 7), v.getLsbD 0)
  | .la => (BitVec.concat (v.extractLsb' 0 7) cin, v.getLsbD 7)
  | .rl => (BitVec.cons (v.getLsbD 0) (v.extractLsb' 1 7), v.getLsbD 0)
  | .ll => (BitVec.concat (v.extractLsb' 0 7) (v.getLsbD 7), v.getLsbD 7)

end Sys2Proof.Machine
end

