-- ==== Sys2Proof/Machine/Memory.lean ====
section
/-! DEFINITION. Memory: 512 bytes in two segments (`20_memory.md` R50 to R53), held as a canonical list of cells. -/

namespace Sys2Proof.Machine

/-- What an unlisted address reads as: the zero padding of the images (`10_state.md` R38, `70_reset_and_hazards.md` R270;
log 17). -/
def Memory.unlisted : Byte := 0x00#8

/-- MemRead(pa, 1) of `00_scope.md` R9. -/
def Memory.read : Memory → Nat → Byte
  | [], _ => Memory.unlisted
  | (a, v) :: m, pa => if a = pa then v else Memory.read m pa

/-- MemWrite(pa, 1, v) of `00_scope.md` R9, keeping the canonical form. -/
def Memory.write : Memory → Nat → Byte → Memory
  | [], pa, v => if v = Memory.unlisted then [] else [(pa, v)]
  | (a, w) :: m, pa, v =>
    if pa < a then if v = Memory.unlisted then (a, w) :: m else (pa, v) :: (a, w) :: m
    else if pa = a then if v = Memory.unlisted then m else (pa, v) :: m
    else (a, w) :: Memory.write m pa v

/-- How many bytes MEM has (`10_state.md` R32). -/
def Memory.size : Nat := 512

/-- The listed addresses rise strictly from lo on, exist, and list no byte that reads as unlisted. -/
def Memory.wfFrom : Nat → Memory → Bool
  | _, [] => true
  | lo, (a, v) :: m => decide (lo ≤ a) && decide (a < Memory.size) && v != Memory.unlisted && Memory.wfFrom (a + 1) m

/-- The canonical form: equal memories are equal lists. -/
def Memory.wf (m : Memory) : Bool := Memory.wfFrom 0 m

/-- The physical address of a segment's first byte (`20_memory.md` R52). -/
def segmentBase : Segment → Nat
  | .text => 0
  | .data => 256

/-- The 9-bit physical address of an 8-bit address within a segment (`20_memory.md` R52). -/
def physical (g : Segment) (a : Byte) : Nat := segmentBase g + u8 a

/-- The byte at an address of a segment: TEXT[a] or DATA[a]. -/
def State.byteAt (s : State) (g : Segment) (a : Byte) : Byte := Memory.read s.mem (physical g a)

/-- TEXT[a] <- v or DATA[a] <- v. -/
def State.storeByte (s : State) (g : Segment) (a v : Byte) : State :=
  { s with mem := Memory.write s.mem (physical g a) v }

end Sys2Proof.Machine
end

