-- ==== Sys2Proof/WellFormed.lean ====
section
/-! DEFINITION. What is checked of terms the types do not already restrict. Every `Instr` is well formed by its type
(a store has only memory modes, a register field only two values); what can be ill formed is a line of code, a
BCOND_MAP, and a construction image. -/

namespace Sys2Proof

/-- A line of code has an operand byte exactly when its instruction is two bytes long (`30_encoding.md` R73). -/
def CodeLine.wf (l : CodeLine) : Bool := l.operand.isSome == l.instr.variant.hasOperandByte

/-- The sixteen branch codes. -/
def branchCodes : List Nibble := (List.range 16).map (BitVec.ofNat 4)

/-- No two branch codes select the same predicate; with sixteen predicates the map is then a bijection (`30_encoding.md` R80). -/
def bcondInjective (m : Nibble → Cond) : Bool :=
  branchCodes.all fun a => branchCodes.all fun b => m a != m b || a == b

/-- Code 3 selects one of the three predicates the source's fixture allows (`30_encoding.md` R80). -/
def bcondFixture (m : Nibble → Cond) : Bool :=
  m 3#4 == .notZero || m 3#4 == .positive || m 3#4 == .signedGt

/-- What the source fixes of BCOND_MAP (`92_eei_decisions.md` D1). -/
def bcondLegal (m : Nibble → Cond) : Bool := bcondInjective m && bcondFixture m

/-- A construction image has at most 256 bytes (`70_reset_and_hazards.md` R271). -/
def imageFits (image : List Byte) : Bool := image.length ≤ 256

end Sys2Proof
end

