-- ==== Sys2Proof/Decode.lean ====
section
/-! DEFINITION. The decoder (`30_encoding.md` R71 to R91), the encoder written from the same tables, and the reader of
a byte stream (R95). -/

namespace Sys2Proof

/-- The answer of the decoder: an instruction, or the decode failure that carries the raw byte (`30_encoding.md` R71). -/
inductive Decoded where
  | instr (i : Instr)
  | fail (b : Byte)
  deriving DecidableEq, Repr

/-- The high nibble, the opcode class (`30_encoding.md` R72). -/
def opcodeClass (b : Byte) : Nibble := b.extractLsb' 4 4

/-- The low nibble. -/
def lowNibble (b : Byte) : Nibble := b.extractLsb' 0 4

/-- The register field r, bit 3 (`30_encoding.md` R76). -/
def regField (b : Byte) : Reg := if b.getLsbD 3 then .ix else .acc

/-- ShiftMode from bits 1:0 (`30_encoding.md` R79). -/
def shiftField (b : Byte) : ShiftMode :=
  match b.getLsbD 1, b.getLsbD 0 with
  | false, false => .ra
  | false, true => .la
  | true, false => .rl
  | true, true => .ll

/-- LoadAddressingMode from bits 2:0 (`30_encoding.md` R77). -/
def loadField (b : Byte) : LoadMode :=
  match b.getLsbD 2, b.getLsbD 1, b.getLsbD 0 with
  | false, false, false => .accd
  | false, false, true => .ixd
  | false, true, _ => .imm
  | true, false, false => .abst
  | true, false, true => .absd
  | true, true, false => .relt
  | true, true, true => .reld

/-- StoreAddressingMode from bits 2:0; 0 to 3 are decode failures (`30_encoding.md` R78). -/
def storeField (b : Byte) : Option StoreMode :=
  match b.getLsbD 2, b.getLsbD 1, b.getLsbD 0 with
  | false, _, _ => none
  | true, false, false => some .abst
  | true, false, true => some .absd
  | true, true, false => some .relt
  | true, true, true => some .reld

/-- The default BCOND_MAP, the table of `30_encoding.md` R80. PRESUMED: the spec takes its code column from general
knowledge of the KUE-CHIP2 (log 1); unsafe. -/
def bcondDefault (code : Nibble) : Cond :=
  match code.toNat with
  | 0x0 => .always
  | 0x1 => .notZero
  | 0x2 => .notNegative
  | 0x3 => .positive
  | 0x4 => .inputEmpty
  | 0x5 => .carryClear
  | 0x6 => .signedGe
  | 0x7 => .signedGt
  | 0x8 => .overflow
  | 0x9 => .zero
  | 0xA => .negative
  | 0xB => .zeroOrNegative
  | 0xC => .outputEmpty
  | 0xD => .carrySet
  | 0xE => .signedLt
  | _ => .signedLe

/-- The decoder of `30_encoding.md` R81 to R89 as one function of the byte and of BCOND_MAP; `none` is the decode failure. -/
def decodeVariant (bcond : Nibble → Cond) (b : Byte) : Option Variant :=
  let r := regField b
  match (opcodeClass b).toNat with
  | 0x0 => some (if b.getLsbD 3 then .hlt else .nop)
  | 0x1 => some (if b.getLsbD 3 then .inp else .out)
  | 0x2 => some (if b.getLsbD 3 then .scf else .rcf)
  | 0x3 => some (.b (bcond (lowNibble b)))
  | 0x4 => some (if b.getLsbD 2 then .rot r (shiftField b) else .sh r (shiftField b))
  | 0x5 => some .hlt
  | 0x6 => some (.ld r (loadField b))
  | 0x7 => (storeField b).map (.st r)
  | 0x8 => some (.bin .sbc r (loadField b))
  | 0x9 => some (.bin .adc r (loadField b))
  | 0xA => some (.bin .sub r (loadField b))
  | 0xB => some (.bin .add r (loadField b))
  | 0xC => some (.bin .eor r (loadField b))
  | 0xD => some (.bin .or r (loadField b))
  | 0xE => some (.bin .and r (loadField b))
  | _ => some (.bin .cmp r (loadField b))

/-- `decode(b)` of `30_encoding.md` R71 for a given BCOND_MAP: total, rejecting with the raw byte. -/
def decodeWith (bcond : Nibble → Cond) (b : Byte) : Decoded :=
  match decodeVariant bcond b with
  | some v => .instr v.toInstr
  | none => .fail b

/-- `decode(b)` with the spec's default BCOND_MAP. -/
def decode (b : Byte) : Decoded := decodeWith bcondDefault b

/-- The instruction length read from the opcode byte alone, by the formula of `30_encoding.md` R73. -/
def lengthOfOpcode (b : Byte) : Nat :=
  let c := (opcodeClass b).toNat
  let m := (b.extractLsb' 0 3).toNat
  if c = 3 ∨ c = 7 ∨ ((c = 6 ∨ c ≥ 8) ∧ m ≥ 2) then 2 else 1

/-- The answer of the stream reader: a line and the bytes after it, an illegal opcode, or a stream that ends before
the line does. -/
inductive DecodedLine where
  | line (l : CodeLine) (rest : List Byte)
  | illegal (b : Byte)
  | truncated
  deriving DecidableEq, Repr

/-- Reads one line of code from a byte stream (`30_encoding.md` R95). -/
def decodeLine : List Byte → DecodedLine
  | [] => .truncated
  | b :: rest =>
    match decode b with
    | .fail b => .illegal b
    | .instr i =>
      if i.variant.hasOperandByte then
        match rest with
        | [] => .truncated
        | d :: rest => .line ⟨i, some d⟩ rest
      else .line ⟨i, none⟩ rest

/-- The bytes of the row the opcode table numbers: bit 0 is the least significant bit of the opcode byte, the operand
byte is bits 15:8, and every bit from nbits on is 0. -/
def tableWordBytes (nbits w : Nat) : List Byte :=
  let v := w % 2 ^ nbits
  [BitVec.ofNat 8 v, BitVec.ofNat 8 (v / 256)]

/-- The instruction the decoder reads from the bytes of a table row. -/
def decodeTableWord (nbits w : Nat) : Option Instr :=
  match decodeLine (tableWordBytes nbits w) with
  | .line l _ => some l.instr
  | .illegal _ => none
  | .truncated => none

/-- The bit of the register selector (`10_state.md` R23). -/
def Reg.bit : Reg → BitVec 1
  | .acc => 0#1
  | .ix => 1#1

/-- The two bits of a ShiftMode (`30_encoding.md` R79). -/
def ShiftMode.bits : ShiftMode → BitVec 2
  | .ra => 0#2
  | .la => 1#2
  | .rl => 2#2
  | .ll => 3#2

/-- The three bits of a LoadAddressingMode, immediate as its canonical 2 (`30_encoding.md` R77, R91; log 23). -/
def LoadMode.bits : LoadMode → BitVec 3
  | .accd => 0#3
  | .ixd => 1#3
  | .imm => 2#3
  | .abst => 4#3
  | .absd => 5#3
  | .relt => 6#3
  | .reld => 7#3

/-- The three bits of a StoreAddressingMode (`30_encoding.md` R78). -/
def StoreMode.bits : StoreMode → BitVec 3
  | .abst => 4#3
  | .absd => 5#3
  | .relt => 6#3
  | .reld => 7#3

/-- The class of a binary operation (`30_encoding.md` R89). -/
def BinOp.opcodeClass : BinOp → Nibble
  | .sbc => 0x8#4
  | .adc => 0x9#4
  | .sub => 0xA#4
  | .add => 0xB#4
  | .eor => 0xC#4
  | .or => 0xD#4
  | .and => 0xE#4
  | .cmp => 0xF#4

/-- The code of a branch condition: the hex column of the table of `30_encoding.md` R80. -/
def Cond.code : Cond → Nibble
  | .always => 0x0#4
  | .notZero => 0x1#4
  | .notNegative => 0x2#4
  | .positive => 0x3#4
  | .inputEmpty => 0x4#4
  | .carryClear => 0x5#4
  | .signedGe => 0x6#4
  | .signedGt => 0x7#4
  | .overflow => 0x8#4
  | .zero => 0x9#4
  | .negative => 0xA#4
  | .zeroOrNegative => 0xB#4
  | .outputEmpty => 0xC#4
  | .carrySet => 0xD#4
  | .signedLt => 0xE#4
  | .signedLe => 0xF#4

/-- The canonical opcode byte (ignored bits zero, immediate as m = 2): the formats of `30_encoding.md` R72 with the
class table R75; log 23. -/
def encodeVariant : Variant → Byte
  | .nop => 0x00#8
  | .hlt => 0x08#8
  | .out => 0x10#8
  | .inp => 0x18#8
  | .rcf => 0x20#8
  | .scf => 0x28#8
  | .b c => 0x3#4 ++ c.code
  | .sh r m => 0x4#4 ++ (r.bit ++ (0#1 ++ m.bits))
  | .rot r m => 0x4#4 ++ (r.bit ++ (1#1 ++ m.bits))
  | .ld r m => 0x6#4 ++ (r.bit ++ m.bits)
  | .st r m => 0x7#4 ++ (r.bit ++ m.bits)
  | .bin op r m => op.opcodeClass ++ (r.bit ++ m.bits)

/-- The canonical opcode byte of an instruction. -/
def encodeOpcode (i : Instr) : Byte := encodeVariant i.variant

/-- The bytes of a line of code: its opcode byte and, for a two-byte instruction, its operand byte. -/
def encode (l : CodeLine) : List Byte := encodeOpcode l.instr :: l.operand.toList

/-- The byte with the bits `30_encoding.md` R91 says are ignored brought to their canonical value: bits 2:0 of classes 0
to 2 zero, class 5 as the canonical halt, m = 3 as m = 2. -/
def canonicalOpcode (b : Byte) : Byte :=
  let c := (opcodeClass b).toNat
  if c ≤ 2 then b &&& 0xF8#8
  else if c = 5 then 0x08#8
  else if (c = 6 ∨ c ≥ 8) ∧ b.extractLsb' 0 3 = 3#3 then b &&& 0xFE#8
  else b

/-- The eight illegal opcode bytes (`30_encoding.md` R90). -/
def illegalOpcodes : List Byte :=
  [0x70#8, 0x71#8, 0x72#8, 0x73#8, 0x78#8, 0x79#8, 0x7A#8, 0x7B#8]

end Sys2Proof
end

