-- ==== Sys2Proof/Machine/Settings.lean ====
section
/-! DEFINITION. The settings of the spec's named parameters that the fixed-name machine runs: the defaults of
`00_scope.md` R6. -/

namespace Sys2Proof

/-- The defaults of `00_scope.md` R6: BCOND_MAP the table of `30_encoding.md` R80 (PRESUMED, log 1), ALU_WIDEN signed
(DESIGN CHOICE of the spec, log 2), BINOP_DATA_OPERAND_SEGMENT text (log 3), HOST_MAY_CLEAR_OBUF_READY true (log 4);
PHASE_AFTER_DECODE_FAULT, which has no default, stays an unknown constant (log 5). -/
def Params.standard : Params where
  bcondMap := bcondDefault
  aluWiden := .signed
  binopDataOperandSegment := .text
  phaseAfterDecodeFault := Config.phaseAfterDecodeFault
  hostMayClearObufReady := true

end Sys2Proof
end

