-- ==== Sys2Proof/Machine/Ops.lean ====
section
/-! DEFINITION. The operations the phases share: registers, the operand-byte fetch, the phase advance, the two phases
common to every instruction, the one exception, and how an instruction's three execute phases make its meaning. -/

namespace Sys2Proof.Machine

/-- R[r], a register read (`10_state.md` R23). -/
def State.reg (s : State) : Reg → Byte
  | .acc => s.acc
  | .ix => s.ix

/-- R[r] <- v (`10_state.md` R23). -/
def State.setReg (s : State) (r : Reg) (v : Byte) : State :=
  match r with
  | .acc => { s with acc := v }
  | .ix => { s with ix := v }

/-- next(PHASE) (`41_phase_engine.md` R135). -/
def nextPhase : Phase → Phase
  | .p0 => .p1
  | .p1 => .p2
  | .p2 => .p3
  | .p3 => .p4
  | .p4 => .p0

/-- The phase advance that ends every step that does not fault (`41_phase_engine.md` R135). -/
def State.advance (s : State) : State := { s with phase := nextPhase s.phase }

/-- `MAR <- PC; then PC <- PC +8 1`: the effect of p0 (`41_phase_engine.md` R132) and the operand-byte fetch at p2 (R137). -/
def State.fetchAddress (s : State) : State := { s with mar := s.pc, pc := s.pc + 1#8 }

/-- Taking the one exception (`60_exceptions.md` R250, R251): it surfaces as the outcome of the step. There is no trap
entry to model, no saved register and no return (R251, R252; log 6). -/
def raiseInvalidInstruction (b : Byte) : Answer := .fault (.invalidInstruction b)

/-- The state the host can read after a p1 step has raised InvalidInstruction: as before that step but for PHASE, which the
parameter PHASE_AFTER_DECODE_FAULT decides (`41_phase_engine.md` R136; log 5). No step is defined from it (log 6). -/
def stateAfterDecodeFaultWith (p : Params) (s : State) : State :=
  match p.phaseAfterDecodeFault with
  | .staysP1 => s
  | .advancesToP2 => { s with phase := .p2 }

/-- The state after a decode failure, for the unknown setting of the parameter. -/
def stateAfterDecodeFault (s : State) : State := stateAfterDecodeFaultWith Params.standard s

/-- Phase p0, opcode address (`41_phase_engine.md` R132). -/
def phase0 (s : State) : Answer := .next s.fetchAddress.advance

/-- Phase p1, opcode fetch and decode (`41_phase_engine.md` R133, R136). -/
def phase1With (p : Params) (s : State) : Answer :=
  match decodeWith p.bcondMap (s.byteAt .text s.mar) with
  | .instr i => .next { s with ir := some i }.advance
  | .fail b => raiseInvalidInstruction b

/-- Phase p1 with the default BCOND_MAP. -/
def phase1 (s : State) : Answer := phase1With Params.standard s

/-- The effects of one instruction's three execute phases, a row of the table of `41_phase_engine.md` R139. -/
structure PhaseEffects where
  p2 : State → State
  p3 : State → State
  p4 : State → State

/-- One step of an instruction: the two common phases, then its own three, each followed by the phase advance
(`41_phase_engine.md` R130, R134, R139; log 16). -/
def performWith (p : Params) (e : PhaseEffects) (s : State) : Answer :=
  match s.phase with
  | .p0 => phase0 s
  | .p1 => phase1With p s
  | .p2 => .next (e.p2 s).advance
  | .p3 => .next (e.p3 s).advance
  | .p4 => .next (e.p4 s).advance

/-- One step of an instruction with the default parameters. -/
def perform (e : PhaseEffects) (s : State) : Answer := performWith Params.standard e s

/-- An instruction's two bytes stored at PC and PC +8 1 of the text segment, and the phase at p0 (log 15). -/
def State.placeWord (s : State) (nbits w : Nat) : State :=
  { (s.storeByte .text s.pc (BitVec.ofNat 8 (w % 2 ^ nbits))).storeByte .text (s.pc + 1#8)
      (BitVec.ofNat 8 (w % 2 ^ nbits / 256)) with phase := .p0 }

/-- The machine after its own p0 and p1, or after p0 alone where p1 would raise (log 15). -/
def State.fetchPlaced (s : State) : State :=
  match phase1 s.fetchAddress.advance with
  | .next fetched => fetched
  | .fault _ => s.fetchAddress.advance
  | .refused _ => s.fetchAddress.advance

end Sys2Proof.Machine
end

