-- ==== Sys2Proof/Machine/Operands.lean ====
section
/-! DEFINITION. The operand forms: address resolution (`44_load_store.md` R203) and the phase effects of each shape of
instruction, written once over every addressing mode. -/

namespace Sys2Proof.Machine

/-- A phase without effect of its own. -/
def noEffect (s : State) : State := s

/-- p3 of the absolute modes: `MAR <- TEXT[MAR]` (`44_load_store.md` R203). -/
def resolveAbsolute (s : State) : State := { s with mar := s.byteAt .text s.mar }

/-- p3 of the relative modes: `MAR <- IX +8 TEXT[MAR]` (`44_load_store.md` R203). -/
def resolveRelative (s : State) : State := { s with mar := s.ix + s.byteAt .text s.mar }

/-- NOP and HLT: no execute phase changes anything (`42_control_io.md` R150, R151). -/
def idleEffects : PhaseEffects := { p2 := noEffect, p3 := noEffect, p4 := noEffect }

/-- OUT (`42_control_io.md` R153). -/
def outputEffects : PhaseEffects where
  p2 s := { s with obuf := { s.obuf with value := s.acc } }
  p3 s := { s with obuf := { s.obuf with ready := true } }
  p4 := noEffect

/-- IN (`42_control_io.md` R154). -/
def inputEffects : PhaseEffects where
  p2 s := { s with acc := s.ibuf.value }
  p3 s := { s with ibuf := { s.ibuf with ready := false } }
  p4 := noEffect

/-- RCF and SCF (`42_control_io.md` R155, R156). -/
def carryEffects (c : Bool) : PhaseEffects where
  p2 s := { s with flags := { s.flags with cf := c } }
  p3 := noEffect
  p4 := noEffect

/-- Bcc (`42_control_io.md` R157): the predicate is evaluated at p3, on the state as it is then. -/
def branchEffects (c : Cond) : PhaseEffects where
  p2 := State.fetchAddress
  p3 s := if condHolds c s.flags s.ibuf.ready s.obuf.ready then { s with pc := s.byteAt .text s.mar } else s
  p4 := noEffect

/-- p2 of a shift or rotate: the register and CF take the unit's answer (`43_shift_rotate.md` R180). -/
def takeShifted (r : Reg) (answer : Byte × Bool) (s : State) : State :=
  { s.setReg r answer.1 with flags := { s.flags with cf := answer.2 } }

/-- p3 of a shift or rotate: ZF, NF and VF from the register's updated value (`43_shift_rotate.md` R180). -/
def settleShiftFlags (r : Reg) (s : State) : State := { s with flags := shiftFlags (s.reg r) s.flags }

/-- SH(r, sm) (`43_shift_rotate.md` R180). -/
def shiftEffects (r : Reg) (m : ShiftMode) : PhaseEffects where
  p2 s := takeShifted r (shift (s.reg r) m) s
  p3 := settleShiftFlags r
  p4 := noEffect

/-- ROT(r, sm) (`43_shift_rotate.md` R180); the carry rotated in is the one before the step. -/
def rotateEffects (r : Reg) (m : ShiftMode) : PhaseEffects where
  p2 s := takeShifted r (rotate (s.reg r) m s.flags.cf) s
  p3 := settleShiftFlags r
  p4 := noEffect

/-- LD r by mode (`44_load_store.md` R201). -/
def loadEffects (r : Reg) (m : LoadMode) : PhaseEffects where
  p2 s :=
    match m with
    | .accd => s.setReg r s.acc
    | .ixd => s.setReg r s.ix
    | .imm | .abst | .absd | .relt | .reld => s.fetchAddress
  p3 s :=
    match m with
    | .accd | .ixd => s
    | .imm => s.setReg r (s.byteAt .text s.mar)
    | .abst | .absd => resolveAbsolute s
    | .relt | .reld => resolveRelative s
  p4 s :=
    match m with
    | .accd | .ixd | .imm => s
    | .abst | .relt => s.setReg r (s.byteAt .text s.mar)
    | .absd | .reld => s.setReg r (s.byteAt .data s.mar)

/-- ST r by mode (`44_load_store.md` R205). -/
def storeEffects (r : Reg) (m : StoreMode) : PhaseEffects where
  p2 := State.fetchAddress
  p3 s :=
    match m with
    | .abst | .absd => resolveAbsolute s
    | .relt | .reld => resolveRelative s
  p4 s :=
    match m with
    | .abst | .relt => s.storeByte .text s.mar (s.reg r)
    | .absd | .reld => s.storeByte .data s.mar (s.reg r)

/-- The compute phase's effect: `(res, flags') <- compute(op, R[r], operand, FLAGS); R[r] <- res; FLAGS <- flags'`, for
CMP too (`45_binary_ops.md` R220, R223; log 12). -/
def computeInto (p : Params) (op : BinOp) (r : Reg) (operand : Byte) (s : State) : State :=
  let answer := compute p.aluWiden op (s.reg r) operand s.flags
  { s.setReg r answer.1 with flags := answer.2 }

/-- BIN(op, r, lm) by mode (`45_binary_ops.md` R221, R222): the register a direct mode names may be the base register
(log 10); the data modes read the segment the parameter names (log 3). -/
def binaryEffects (p : Params) (op : BinOp) (r : Reg) (m : LoadMode) : PhaseEffects where
  p2 s :=
    match m with
    | .accd => computeInto p op r s.acc s
    | .ixd => computeInto p op r s.ix s
    | .imm | .abst | .absd | .relt | .reld => s.fetchAddress
  p3 s :=
    match m with
    | .accd | .ixd => s
    | .imm => computeInto p op r (s.byteAt .text s.mar) s
    | .abst | .absd => resolveAbsolute s
    | .relt | .reld => resolveRelative s
  p4 s :=
    match m with
    | .accd | .ixd | .imm => s
    | .abst | .relt => computeInto p op r (s.byteAt .text s.mar) s
    | .absd | .reld => computeInto p op r (s.byteAt p.binopDataOperandSegment s.mar) s

end Sys2Proof.Machine
end

