-- ==== Sys2Proof/Machine/Binary.lean ====
section
/-! DEFINITION. The meanings of the eight binary operations in their seven addressing modes (`45_binary_ops.md` R220 to R233). -/

namespace Sys2Proof.Machine

/-- SBC r,ACC: `45_binary_ops.md` R226. -/
def execSbcAcc (r : Reg) (s : State) : Answer := perform (binaryEffects Params.standard .sbc r .accd) s

/-- SBC r,IX: `45_binary_ops.md` R226. -/
def execSbcIx (r : Reg) (s : State) : Answer := perform (binaryEffects Params.standard .sbc r .ixd) s

/-- SBC r,d: `45_binary_ops.md` R226. -/
def execSbcImm (r : Reg) (s : State) : Answer := perform (binaryEffects Params.standard .sbc r .imm) s

/-- SBC r,[d]: `45_binary_ops.md` R226. -/
def execSbcAbst (r : Reg) (s : State) : Answer := perform (binaryEffects Params.standard .sbc r .abst) s

/-- SBC r,(d): `45_binary_ops.md` R226. -/
def execSbcAbsd (r : Reg) (s : State) : Answer := perform (binaryEffects Params.standard .sbc r .absd) s

/-- SBC r,[IX+d]: `45_binary_ops.md` R226. -/
def execSbcRelt (r : Reg) (s : State) : Answer := perform (binaryEffects Params.standard .sbc r .relt) s

/-- SBC r,(IX+d): `45_binary_ops.md` R226. -/
def execSbcReld (r : Reg) (s : State) : Answer := perform (binaryEffects Params.standard .sbc r .reld) s

/-- ADC r,ACC: `45_binary_ops.md` R227. -/
def execAdcAcc (r : Reg) (s : State) : Answer := perform (binaryEffects Params.standard .adc r .accd) s

/-- ADC r,IX: `45_binary_ops.md` R227. -/
def execAdcIx (r : Reg) (s : State) : Answer := perform (binaryEffects Params.standard .adc r .ixd) s

/-- ADC r,d: `45_binary_ops.md` R227. -/
def execAdcImm (r : Reg) (s : State) : Answer := perform (binaryEffects Params.standard .adc r .imm) s

/-- ADC r,[d]: `45_binary_ops.md` R227. -/
def execAdcAbst (r : Reg) (s : State) : Answer := perform (binaryEffects Params.standard .adc r .abst) s

/-- ADC r,(d): `45_binary_ops.md` R227. -/
def execAdcAbsd (r : Reg) (s : State) : Answer := perform (binaryEffects Params.standard .adc r .absd) s

/-- ADC r,[IX+d]: `45_binary_ops.md` R227. -/
def execAdcRelt (r : Reg) (s : State) : Answer := perform (binaryEffects Params.standard .adc r .relt) s

/-- ADC r,(IX+d): `45_binary_ops.md` R227. -/
def execAdcReld (r : Reg) (s : State) : Answer := perform (binaryEffects Params.standard .adc r .reld) s

/-- SUB r,ACC: `45_binary_ops.md` R228. -/
def execSubAcc (r : Reg) (s : State) : Answer := perform (binaryEffects Params.standard .sub r .accd) s

/-- SUB r,IX: `45_binary_ops.md` R228. -/
def execSubIx (r : Reg) (s : State) : Answer := perform (binaryEffects Params.standard .sub r .ixd) s

/-- SUB r,d: `45_binary_ops.md` R228. -/
def execSubImm (r : Reg) (s : State) : Answer := perform (binaryEffects Params.standard .sub r .imm) s

/-- SUB r,[d]: `45_binary_ops.md` R228. -/
def execSubAbst (r : Reg) (s : State) : Answer := perform (binaryEffects Params.standard .sub r .abst) s

/-- SUB r,(d): `45_binary_ops.md` R228. -/
def execSubAbsd (r : Reg) (s : State) : Answer := perform (binaryEffects Params.standard .sub r .absd) s

/-- SUB r,[IX+d]: `45_binary_ops.md` R228. -/
def execSubRelt (r : Reg) (s : State) : Answer := perform (binaryEffects Params.standard .sub r .relt) s

/-- SUB r,(IX+d): `45_binary_ops.md` R228. -/
def execSubReld (r : Reg) (s : State) : Answer := perform (binaryEffects Params.standard .sub r .reld) s

/-- ADD r,ACC: `45_binary_ops.md` R229. -/
def execAddAcc (r : Reg) (s : State) : Answer := perform (binaryEffects Params.standard .add r .accd) s

/-- ADD r,IX: `45_binary_ops.md` R229. -/
def execAddIx (r : Reg) (s : State) : Answer := perform (binaryEffects Params.standard .add r .ixd) s

/-- ADD r,d: `45_binary_ops.md` R229. -/
def execAddImm (r : Reg) (s : State) : Answer := perform (binaryEffects Params.standard .add r .imm) s

/-- ADD r,[d]: `45_binary_ops.md` R229. -/
def execAddAbst (r : Reg) (s : State) : Answer := perform (binaryEffects Params.standard .add r .abst) s

/-- ADD r,(d): `45_binary_ops.md` R229. -/
def execAddAbsd (r : Reg) (s : State) : Answer := perform (binaryEffects Params.standard .add r .absd) s

/-- ADD r,[IX+d]: `45_binary_ops.md` R229. -/
def execAddRelt (r : Reg) (s : State) : Answer := perform (binaryEffects Params.standard .add r .relt) s

/-- ADD r,(IX+d): `45_binary_ops.md` R229. -/
def execAddReld (r : Reg) (s : State) : Answer := perform (binaryEffects Params.standard .add r .reld) s

/-- EOR r,ACC: `45_binary_ops.md` R230. -/
def execEorAcc (r : Reg) (s : State) : Answer := perform (binaryEffects Params.standard .eor r .accd) s

/-- EOR r,IX: `45_binary_ops.md` R230. -/
def execEorIx (r : Reg) (s : State) : Answer := perform (binaryEffects Params.standard .eor r .ixd) s

/-- EOR r,d: `45_binary_ops.md` R230. -/
def execEorImm (r : Reg) (s : State) : Answer := perform (binaryEffects Params.standard .eor r .imm) s

/-- EOR r,[d]: `45_binary_ops.md` R230. -/
def execEorAbst (r : Reg) (s : State) : Answer := perform (binaryEffects Params.standard .eor r .abst) s

/-- EOR r,(d): `45_binary_ops.md` R230. -/
def execEorAbsd (r : Reg) (s : State) : Answer := perform (binaryEffects Params.standard .eor r .absd) s

/-- EOR r,[IX+d]: `45_binary_ops.md` R230. -/
def execEorRelt (r : Reg) (s : State) : Answer := perform (binaryEffects Params.standard .eor r .relt) s

/-- EOR r,(IX+d): `45_binary_ops.md` R230. -/
def execEorReld (r : Reg) (s : State) : Answer := perform (binaryEffects Params.standard .eor r .reld) s

/-- OR r,ACC: `45_binary_ops.md` R231. -/
def execOrAcc (r : Reg) (s : State) : Answer := perform (binaryEffects Params.standard .or r .accd) s

/-- OR r,IX: `45_binary_ops.md` R231. -/
def execOrIx (r : Reg) (s : State) : Answer := perform (binaryEffects Params.standard .or r .ixd) s

/-- OR r,d: `45_binary_ops.md` R231. -/
def execOrImm (r : Reg) (s : State) : Answer := perform (binaryEffects Params.standard .or r .imm) s

/-- OR r,[d]: `45_binary_ops.md` R231. -/
def execOrAbst (r : Reg) (s : State) : Answer := perform (binaryEffects Params.standard .or r .abst) s

/-- OR r,(d): `45_binary_ops.md` R231. -/
def execOrAbsd (r : Reg) (s : State) : Answer := perform (binaryEffects Params.standard .or r .absd) s

/-- OR r,[IX+d]: `45_binary_ops.md` R231. -/
def execOrRelt (r : Reg) (s : State) : Answer := perform (binaryEffects Params.standard .or r .relt) s

/-- OR r,(IX+d): `45_binary_ops.md` R231. -/
def execOrReld (r : Reg) (s : State) : Answer := perform (binaryEffects Params.standard .or r .reld) s

/-- AND r,ACC: `45_binary_ops.md` R232. -/
def execAndAcc (r : Reg) (s : State) : Answer := perform (binaryEffects Params.standard .and r .accd) s

/-- AND r,IX: `45_binary_ops.md` R232. -/
def execAndIx (r : Reg) (s : State) : Answer := perform (binaryEffects Params.standard .and r .ixd) s

/-- AND r,d: `45_binary_ops.md` R232. -/
def execAndImm (r : Reg) (s : State) : Answer := perform (binaryEffects Params.standard .and r .imm) s

/-- AND r,[d]: `45_binary_ops.md` R232. -/
def execAndAbst (r : Reg) (s : State) : Answer := perform (binaryEffects Params.standard .and r .abst) s

/-- AND r,(d): `45_binary_ops.md` R232. -/
def execAndAbsd (r : Reg) (s : State) : Answer := perform (binaryEffects Params.standard .and r .absd) s

/-- AND r,[IX+d]: `45_binary_ops.md` R232. -/
def execAndRelt (r : Reg) (s : State) : Answer := perform (binaryEffects Params.standard .and r .relt) s

/-- AND r,(IX+d): `45_binary_ops.md` R232. -/
def execAndReld (r : Reg) (s : State) : Answer := perform (binaryEffects Params.standard .and r .reld) s

/-- CMP r,ACC: `45_binary_ops.md` R233; the register is overwritten (R223, log 12). -/
def execCmpAcc (r : Reg) (s : State) : Answer := perform (binaryEffects Params.standard .cmp r .accd) s

/-- CMP r,IX: `45_binary_ops.md` R233; the register is overwritten (R223, log 12). -/
def execCmpIx (r : Reg) (s : State) : Answer := perform (binaryEffects Params.standard .cmp r .ixd) s

/-- CMP r,d: `45_binary_ops.md` R233; the register is overwritten (R223, log 12). -/
def execCmpImm (r : Reg) (s : State) : Answer := perform (binaryEffects Params.standard .cmp r .imm) s

/-- CMP r,[d]: `45_binary_ops.md` R233; the register is overwritten (R223, log 12). -/
def execCmpAbst (r : Reg) (s : State) : Answer := perform (binaryEffects Params.standard .cmp r .abst) s

/-- CMP r,(d): `45_binary_ops.md` R233; the register is overwritten (R223, log 12). -/
def execCmpAbsd (r : Reg) (s : State) : Answer := perform (binaryEffects Params.standard .cmp r .absd) s

/-- CMP r,[IX+d]: `45_binary_ops.md` R233; the register is overwritten (R223, log 12). -/
def execCmpRelt (r : Reg) (s : State) : Answer := perform (binaryEffects Params.standard .cmp r .relt) s

/-- CMP r,(IX+d): `45_binary_ops.md` R233; the register is overwritten (R223, log 12). -/
def execCmpReld (r : Reg) (s : State) : Answer := perform (binaryEffects Params.standard .cmp r .reld) s

end Sys2Proof.Machine
end

