-- ==== Sys2Proof/Machine/Branch.lean ====
section
/-! DEFINITION. The meanings of the sixteen branches (`42_control_io.md` R157 to R173). -/

namespace Sys2Proof.Machine

/-- BA d: `42_control_io.md` R158. -/
def execBa (s : State) : Answer := perform (branchEffects .always) s

/-- BNZ d: `42_control_io.md` R160. -/
def execBnz (s : State) : Answer := perform (branchEffects .notZero) s

/-- BZP d: `42_control_io.md` R162. -/
def execBzp (s : State) : Answer := perform (branchEffects .notNegative) s

/-- BP d: `42_control_io.md` R164. -/
def execBp (s : State) : Answer := perform (branchEffects .positive) s

/-- BNI d: `42_control_io.md` R166; log 11. -/
def execBni (s : State) : Answer := perform (branchEffects .inputEmpty) s

/-- BNC d: `42_control_io.md` R168. -/
def execBnc (s : State) : Answer := perform (branchEffects .carryClear) s

/-- BGE d: `42_control_io.md` R170. -/
def execBge (s : State) : Answer := perform (branchEffects .signedGe) s

/-- BGT d: `42_control_io.md` R172. -/
def execBgt (s : State) : Answer := perform (branchEffects .signedGt) s

/-- BVF d: `42_control_io.md` R159. -/
def execBvf (s : State) : Answer := perform (branchEffects .overflow) s

/-- BZ d: `42_control_io.md` R161. -/
def execBz (s : State) : Answer := perform (branchEffects .zero) s

/-- BN d: `42_control_io.md` R163. -/
def execBn (s : State) : Answer := perform (branchEffects .negative) s

/-- BZN d: `42_control_io.md` R165. -/
def execBzn (s : State) : Answer := perform (branchEffects .zeroOrNegative) s

/-- BNO d: `42_control_io.md` R167; log 11. -/
def execBno (s : State) : Answer := perform (branchEffects .outputEmpty) s

/-- BC d: `42_control_io.md` R169. -/
def execBc (s : State) : Answer := perform (branchEffects .carrySet) s

/-- BLT d: `42_control_io.md` R171. -/
def execBlt (s : State) : Answer := perform (branchEffects .signedLt) s

/-- BLE d: `42_control_io.md` R173. -/
def execBle (s : State) : Answer := perform (branchEffects .signedLe) s

end Sys2Proof.Machine
end

