-- ==== Sys2Proof/Machine/Control.lean ====
section
/-! DEFINITION. The meanings of the control, flag and input/output instructions (`42_control_io.md` R150 to R156). -/

namespace Sys2Proof.Machine

/-- NOP: `42_control_io.md` R150. -/
def execNop (s : State) : Answer := perform idleEffects s

/-- HLT: `42_control_io.md` R151; the Halt signal is `signal` in `Machine/Run.lean` (log 8). -/
def execHlt (s : State) : Answer := perform idleEffects s

/-- OUT: `42_control_io.md` R153. -/
def execOut (s : State) : Answer := perform outputEffects s

/-- IN: `42_control_io.md` R154. -/
def execInp (s : State) : Answer := perform inputEffects s

/-- RCF: `42_control_io.md` R155. -/
def execRcf (s : State) : Answer := perform (carryEffects false) s

/-- SCF: `42_control_io.md` R156. -/
def execScf (s : State) : Answer := perform (carryEffects true) s

end Sys2Proof.Machine
end

