-- ==== Sys2Proof/Machine/LoadStore.lean ====
section
/-! DEFINITION. The meanings of the load and store instructions (`44_load_store.md` R201, R205). -/

namespace Sys2Proof.Machine

/-- LD r,ACC: `44_load_store.md` R201. -/
def execLdAcc (r : Reg) (s : State) : Answer := perform (loadEffects r .accd) s

/-- LD r,IX: `44_load_store.md` R201. -/
def execLdIx (r : Reg) (s : State) : Answer := perform (loadEffects r .ixd) s

/-- LD r,d: `44_load_store.md` R201. -/
def execLdImm (r : Reg) (s : State) : Answer := perform (loadEffects r .imm) s

/-- LD r,[d]: `44_load_store.md` R201. -/
def execLdAbst (r : Reg) (s : State) : Answer := perform (loadEffects r .abst) s

/-- LD r,(d): `44_load_store.md` R201. -/
def execLdAbsd (r : Reg) (s : State) : Answer := perform (loadEffects r .absd) s

/-- LD r,[IX+d]: `44_load_store.md` R201. -/
def execLdRelt (r : Reg) (s : State) : Answer := perform (loadEffects r .relt) s

/-- LD r,(IX+d): `44_load_store.md` R201. -/
def execLdReld (r : Reg) (s : State) : Answer := perform (loadEffects r .reld) s

/-- ST r,[d]: `44_load_store.md` R205. -/
def execStAbst (r : Reg) (s : State) : Answer := perform (storeEffects r .abst) s

/-- ST r,(d): `44_load_store.md` R205. -/
def execStAbsd (r : Reg) (s : State) : Answer := perform (storeEffects r .absd) s

/-- ST r,[IX+d]: `44_load_store.md` R205. -/
def execStRelt (r : Reg) (s : State) : Answer := perform (storeEffects r .relt) s

/-- ST r,(IX+d): `44_load_store.md` R205. -/
def execStReld (r : Reg) (s : State) : Answer := perform (storeEffects r .reld) s

end Sys2Proof.Machine
end

