-- ==== Sys2Proof/Machine/Shift.lean ====
section
/-! DEFINITION. The meanings of the shift and rotate instructions (`43_shift_rotate.md` R180 to R188). -/

namespace Sys2Proof.Machine

/-- SRA r: `43_shift_rotate.md` R181. -/
def execSra (r : Reg) (s : State) : Answer := perform (shiftEffects r .ra) s

/-- SLA r: `43_shift_rotate.md` R182. -/
def execSla (r : Reg) (s : State) : Answer := perform (shiftEffects r .la) s

/-- SRL r: `43_shift_rotate.md` R183. -/
def execSrl (r : Reg) (s : State) : Answer := perform (shiftEffects r .rl) s

/-- SLL r: `43_shift_rotate.md` R184. -/
def execSll (r : Reg) (s : State) : Answer := perform (shiftEffects r .ll) s

/-- RRA r: `43_shift_rotate.md` R185. -/
def execRra (r : Reg) (s : State) : Answer := perform (rotateEffects r .ra) s

/-- RLA r: `43_shift_rotate.md` R186. -/
def execRla (r : Reg) (s : State) : Answer := perform (rotateEffects r .la) s

/-- RRL r: `43_shift_rotate.md` R187. -/
def execRrl (r : Reg) (s : State) : Answer := perform (rotateEffects r .rl) s

/-- RLL r: `43_shift_rotate.md` R188. -/
def execRll (r : Reg) (s : State) : Answer := perform (rotateEffects r .ll) s

end Sys2Proof.Machine
end

