-- ==== Sys2Proof/Machine/Dispatch.lean ====
section
/-! DEFINITION. One arm per constructor of `Instr`: each calls its instruction's meaning. -/

namespace Sys2Proof.Machine

def exec (i : Instr) (s : State) : Host.Outcome State Fault Refusal :=
  match i with
  | .nop => Sys2Proof.Machine.execNop s
  | .hlt => Sys2Proof.Machine.execHlt s
  | .out => Sys2Proof.Machine.execOut s
  | .inp => Sys2Proof.Machine.execInp s
  | .rcf => Sys2Proof.Machine.execRcf s
  | .scf => Sys2Proof.Machine.execScf s
  | .ba => Sys2Proof.Machine.execBa s
  | .bnz => Sys2Proof.Machine.execBnz s
  | .bzp => Sys2Proof.Machine.execBzp s
  | .bp => Sys2Proof.Machine.execBp s
  | .bni => Sys2Proof.Machine.execBni s
  | .bnc => Sys2Proof.Machine.execBnc s
  | .bge => Sys2Proof.Machine.execBge s
  | .bgt => Sys2Proof.Machine.execBgt s
  | .bvf => Sys2Proof.Machine.execBvf s
  | .bz => Sys2Proof.Machine.execBz s
  | .bn => Sys2Proof.Machine.execBn s
  | .bzn => Sys2Proof.Machine.execBzn s
  | .bno => Sys2Proof.Machine.execBno s
  | .bc => Sys2Proof.Machine.execBc s
  | .blt => Sys2Proof.Machine.execBlt s
  | .ble => Sys2Proof.Machine.execBle s
  | .sra r => Sys2Proof.Machine.execSra r s
  | .sla r => Sys2Proof.Machine.execSla r s
  | .srl r => Sys2Proof.Machine.execSrl r s
  | .sll r => Sys2Proof.Machine.execSll r s
  | .rra r => Sys2Proof.Machine.execRra r s
  | .rla r => Sys2Proof.Machine.execRla r s
  | .rrl r => Sys2Proof.Machine.execRrl r s
  | .rll r => Sys2Proof.Machine.execRll r s
  | .ldAcc r => Sys2Proof.Machine.execLdAcc r s
  | .ldIx r => Sys2Proof.Machine.execLdIx r s
  | .ldImm r => Sys2Proof.Machine.execLdImm r s
  | .ldAbst r => Sys2Proof.Machine.execLdAbst r s
  | .ldAbsd r => Sys2Proof.Machine.execLdAbsd r s
  | .ldRelt r => Sys2Proof.Machine.execLdRelt r s
  | .ldReld r => Sys2Proof.Machine.execLdReld r s
  | .stAbst r => Sys2Proof.Machine.execStAbst r s
  | .stAbsd r => Sys2Proof.Machine.execStAbsd r s
  | .stRelt r => Sys2Proof.Machine.execStRelt r s
  | .stReld r => Sys2Proof.Machine.execStReld r s
  | .sbcAcc r => Sys2Proof.Machine.execSbcAcc r s
  | .sbcIx r => Sys2Proof.Machine.execSbcIx r s
  | .sbcImm r => Sys2Proof.Machine.execSbcImm r s
  | .sbcAbst r => Sys2Proof.Machine.execSbcAbst r s
  | .sbcAbsd r => Sys2Proof.Machine.execSbcAbsd r s
  | .sbcRelt r => Sys2Proof.Machine.execSbcRelt r s
  | .sbcReld r => Sys2Proof.Machine.execSbcReld r s
  | .adcAcc r => Sys2Proof.Machine.execAdcAcc r s
  | .adcIx r => Sys2Proof.Machine.execAdcIx r s
  | .adcImm r => Sys2Proof.Machine.execAdcImm r s
  | .adcAbst r => Sys2Proof.Machine.execAdcAbst r s
  | .adcAbsd r => Sys2Proof.Machine.execAdcAbsd r s
  | .adcRelt r => Sys2Proof.Machine.execAdcRelt r s
  | .adcReld r => Sys2Proof.Machine.execAdcReld r s
  | .subAcc r => Sys2Proof.Machine.execSubAcc r s
  | .subIx r => Sys2Proof.Machine.execSubIx r s
  | .subImm r => Sys2Proof.Machine.execSubImm r s
  | .subAbst r => Sys2Proof.Machine.execSubAbst r s
  | .subAbsd r => Sys2Proof.Machine.execSubAbsd r s
  | .subRelt r => Sys2Proof.Machine.execSubRelt r s
  | .subReld r => Sys2Proof.Machine.execSubReld r s
  | .addAcc r => Sys2Proof.Machine.execAddAcc r s
  | .addIx r => Sys2Proof.Machine.execAddIx r s
  | .addImm r => Sys2Proof.Machine.execAddImm r s
  | .addAbst r => Sys2Proof.Machine.execAddAbst r s
  | .addAbsd r => Sys2Proof.Machine.execAddAbsd r s
  | .addRelt r => Sys2Proof.Machine.execAddRelt r s
  | .addReld r => Sys2Proof.Machine.execAddReld r s
  | .eorAcc r => Sys2Proof.Machine.execEorAcc r s
  | .eorIx r => Sys2Proof.Machine.execEorIx r s
  | .eorImm r => Sys2Proof.Machine.execEorImm r s
  | .eorAbst r => Sys2Proof.Machine.execEorAbst r s
  | .eorAbsd r => Sys2Proof.Machine.execEorAbsd r s
  | .eorRelt r => Sys2Proof.Machine.execEorRelt r s
  | .eorReld r => Sys2Proof.Machine.execEorReld r s
  | .orAcc r => Sys2Proof.Machine.execOrAcc r s
  | .orIx r => Sys2Proof.Machine.execOrIx r s
  | .orImm r => Sys2Proof.Machine.execOrImm r s
  | .orAbst r => Sys2Proof.Machine.execOrAbst r s
  | .orAbsd r => Sys2Proof.Machine.execOrAbsd r s
  | .orRelt r => Sys2Proof.Machine.execOrRelt r s
  | .orReld r => Sys2Proof.Machine.execOrReld r s
  | .andAcc r => Sys2Proof.Machine.execAndAcc r s
  | .andIx r => Sys2Proof.Machine.execAndIx r s
  | .andImm r => Sys2Proof.Machine.execAndImm r s
  | .andAbst r => Sys2Proof.Machine.execAndAbst r s
  | .andAbsd r => Sys2Proof.Machine.execAndAbsd r s
  | .andRelt r => Sys2Proof.Machine.execAndRelt r s
  | .andReld r => Sys2Proof.Machine.execAndReld r s
  | .cmpAcc r => Sys2Proof.Machine.execCmpAcc r s
  | .cmpIx r => Sys2Proof.Machine.execCmpIx r s
  | .cmpImm r => Sys2Proof.Machine.execCmpImm r s
  | .cmpAbst r => Sys2Proof.Machine.execCmpAbst r s
  | .cmpAbsd r => Sys2Proof.Machine.execCmpAbsd r s
  | .cmpRelt r => Sys2Proof.Machine.execCmpRelt r s
  | .cmpReld r => Sys2Proof.Machine.execCmpReld r s

end Sys2Proof.Machine
end

