-- ==== Sys2Proof/Machine/Step.lean ====
section
/-! DEFINITION. The step operation, one phase per call (`41_phase_engine.md` R130), and how the host's check places an
instruction where the very next step runs it. -/

namespace Sys2Proof.Machine

/-- One phase (`41_phase_engine.md` R130): the phase is dispatched on first, and IR is consulted only in p2, p3 and p4
(R133, R138; log 8). Every answer but a fault has the phase advanced (R135). -/
def step (s : State) : Host.Outcome State Fault Refusal :=
  match s.phase with
  | .p0 => phase0 s
  | .p1 => phase1 s
  | .p2 | .p3 | .p4 =>
    match s.ir with
    | some i => exec i s
    | none => .refused .noInstruction

/-- The machine with an instruction placed and brought to where the very next step runs it: the bytes stand at PC, and the
machine's own p0 and p1 have addressed, fetched and decoded the opcode, so IR holds it and the phase is p2. An illegal
opcode leaves the machine before the p1 that raises (log 15). -/
def State.withFetchWord (s : State) (nbits w : Nat) : State := (s.placeWord nbits w).fetchPlaced

end Sys2Proof.Machine
end

