-- ==== Sys2Proof/Machine/Cycle.lean ====
section
/-! DEFINITION. The instruction-level view: what one whole instruction cycle (`41_phase_engine.md` R131) does, written
from the state before it and without phases. It is a second description, for the claim that the five phase steps
compute it; `step` does not use it. -/

namespace Sys2Proof.Machine

/-- k steps, up to the first fault or refusal. -/
def stepTimes : Nat → State → Answer
  | 0, s => .next s
  | k + 1, s =>
    match step s with
    | .next t => stepTimes k t
    | .fault r => .fault r
    | .refused r => .refused r

/-- The operand byte of the instruction whose opcode is at PC: the byte at PC +8 1 (`30_encoding.md` R74). -/
def operandByte (s : State) : Byte := s.byteAt .text (s.pc + 1#8)

/-- The effective address of a mode (`44_load_store.md` R200): d for the absolute modes, IX +8 d for the relative ones; a
mode without one leaves MAR at the last byte fetched. -/
def loadAddress (m : LoadMode) (s : State) : Byte :=
  match m with
  | .accd | .ixd => s.pc
  | .imm => s.pc + 1#8
  | .abst | .absd => operandByte s
  | .relt | .reld => s.ix + operandByte s

/-- The effective address of a store (`44_load_store.md` R200, R205). -/
def storeAddress (m : StoreMode) (s : State) : Byte :=
  match m with
  | .abst | .absd => operandByte s
  | .relt | .reld => s.ix + operandByte s

/-- The segment a store's mode names (`44_load_store.md` R205). -/
def storeSegment : StoreMode → Segment
  | .abst | .relt => .text
  | .absd | .reld => .data

/-- The value a load takes (`44_load_store.md` R201). -/
def loadValue (m : LoadMode) (s : State) : Byte :=
  match m with
  | .accd => s.acc
  | .ixd => s.ix
  | .imm => operandByte s
  | .abst | .relt => s.byteAt .text (loadAddress m s)
  | .absd | .reld => s.byteAt .data (loadAddress m s)

/-- The operand of a binary operation (`45_binary_ops.md` R221, R222), with the data modes reading the text segment. -/
def binaryOperand (m : LoadMode) (s : State) : Byte :=
  match m with
  | .accd => s.acc
  | .ixd => s.ix
  | .imm => operandByte s
  | .abst | .absd | .relt | .reld => s.byteAt .text (loadAddress m s)

/-- The state with the program counter past an instruction and MAR and IR as its cycle leaves them. -/
def State.movedPast (s : State) (i : Instr) (lastAddress : Byte) : State :=
  { s with
    ir := some i
    mar := lastAddress
    pc := s.pc + BitVec.ofNat 8 i.length }

/-- A register and the flags written together. -/
def State.withResult (s : State) (r : Reg) (answer : Byte × Flags) : State :=
  { s.setReg r answer.1 with flags := answer.2 }

/-- The state after the whole instruction cycle of i, whose opcode is at PC, from the state before it at p0. -/
def cycleEffect (i : Instr) (s : State) : State :=
  match i.variant with
  | .nop | .hlt => s.movedPast i s.pc
  | .out => { s.movedPast i s.pc with obuf := { value := s.acc, ready := true } }
  | .inp => { s.movedPast i s.pc with acc := s.ibuf.value, ibuf := { s.ibuf with ready := false } }
  | .rcf => { s.movedPast i s.pc with flags := { s.flags with cf := false } }
  | .scf => { s.movedPast i s.pc with flags := { s.flags with cf := true } }
  | .b c =>
    let fallThrough := s.movedPast i (s.pc + 1#8)
    if condHolds c s.flags s.ibuf.ready s.obuf.ready then { fallThrough with pc := operandByte s } else fallThrough
  | .sh r m =>
    let answer := shift (s.reg r) m
    (s.movedPast i s.pc).withResult r (answer.1, shiftFlags answer.1 { s.flags with cf := answer.2 })
  | .rot r m =>
    let answer := rotate (s.reg r) m s.flags.cf
    (s.movedPast i s.pc).withResult r (answer.1, shiftFlags answer.1 { s.flags with cf := answer.2 })
  | .ld r m => (s.movedPast i (loadAddress m s)).setReg r (loadValue m s)
  | .st r m => (s.movedPast i (storeAddress m s)).storeByte (storeSegment m) (storeAddress m s) (s.reg r)
  | .bin op r m =>
    (s.movedPast i (loadAddress m s)).withResult r (compute .signed op (s.reg r) (binaryOperand m s) s.flags)

end Sys2Proof.Machine
end

