-- ==== Sys2Proof/Machine/Parametric.lean ====
section
/-! DEFINITION. The machine for any setting of the spec's named parameters (`00_scope.md` R6), over the closed variant of
`30_encoding.md` R70. The fixed-name machine is its instance at `Params.standard` (`Laws/Ops.lean`). -/

namespace Sys2Proof.Machine

/-- The table of `41_phase_engine.md` R139: the execute phases of every variant. -/
def variantEffects (p : Params) : Variant → PhaseEffects
  | .nop => idleEffects
  | .hlt => idleEffects
  | .out => outputEffects
  | .inp => inputEffects
  | .rcf => carryEffects false
  | .scf => carryEffects true
  | .b c => branchEffects c
  | .sh r m => shiftEffects r m
  | .rot r m => rotateEffects r m
  | .ld r m => loadEffects r m
  | .st r m => storeEffects r m
  | .bin op r m => binaryEffects p op r m

/-- One phase of an instruction under given parameters. -/
def execWith (p : Params) (i : Instr) (s : State) : Answer := performWith p (variantEffects p i.variant) s

/-- One phase under given parameters (`41_phase_engine.md` R130). -/
def stepWith (p : Params) (s : State) : Answer :=
  match s.phase with
  | .p0 => phase0 s
  | .p1 => phase1With p s
  | .p2 | .p3 | .p4 =>
    match s.ir with
    | some i => execWith p i s
    | none => .refused .noInstruction

end Sys2Proof.Machine
end

