-- ==== Sys2Proof/Machine/Construct.lean ====
section
/-! DEFINITION. Construction, the only reset (`70_reset_and_hazards.md` R270 to R272). -/

namespace Sys2Proof.Machine

/-- Why a construction is rejected (`70_reset_and_hazards.md` R271): no state exists after it. DESIGN CHOICE: R271 speaks of
"a construction error" only; that there are two, named for the image that is too long, is the model's (log 25); safe. -/
inductive ConstructionError where
  | programTooLong
  | dataTooLong
  deriving DecidableEq, Repr

/-- The answer of construction. -/
inductive Constructed where
  | state (s : State)
  | rejected (e : ConstructionError)
  deriving DecidableEq, Repr

/-- Writes the bytes of an image at consecutive physical addresses. -/
def placeImage : Nat → List Byte → Memory → Memory
  | _, [], m => m
  | pa, b :: image, m => placeImage (pa + 1) image (Memory.write m pa b)

/-- The reset state with its memory holding the two images (`70_reset_and_hazards.md` R270). -/
def State.loaded (program data : List Byte) : State :=
  { State.reset with
    mem := placeImage (segmentBase .data) data (placeImage (segmentBase .text) program State.reset.mem) }

/-- `new(programBytes, dataBytes)`: rejects an image of more than 256 bytes, and never truncates one
(`60_exceptions.md` R256, `70_reset_and_hazards.md` R270, R271). DESIGN CHOICE: with both images too long the answer names the
program, since the spec orders no checks (log 25); safe. -/
def construct (program data : List Byte) : Constructed :=
  if imageFits program then
    if imageFits data then .state (State.loaded program data) else .rejected .dataTooLong
  else .rejected .programTooLong

end Sys2Proof.Machine
end

