-- ==== Sys2Proof/Machine/HostMoves.lean ====
section
/-! DEFINITION. The host's moves between steps (`60_exceptions.md` R258 to R262) and sessions that interleave them with
steps in any order. Reading the state (R260, R262) is no move here: State is plain data and reading changes nothing. -/

namespace Sys2Proof.Machine

/-- What the host may write, and nothing else (`60_exceptions.md` R258; log 14). -/
inductive HostMove where
  /-- The input device sets IBUF.value to any byte and IBUF.ready to true (`60_exceptions.md` R259). -/
  | supplyInput (v : Byte)
  /-- The host clears OBUF.ready, where HOST_MAY_CLEAR_OBUF_READY is true (`60_exceptions.md` R261). -/
  | clearOutputReady
  deriving DecidableEq, Repr

/-- A host move applied to the state, or refused where the parameter excludes it (log 4, log 14). -/
def applyMoveWith (p : Params) (m : HostMove) (s : State) : Answer :=
  match m with
  | .supplyInput v => .next { s with ibuf := { value := v, ready := true } }
  | .clearOutputReady =>
    if p.hostMayClearObufReady then .next { s with obuf := { s.obuf with ready := false } }
    else .refused .hostMoveNotAllowed

/-- A host move under the default parameters. -/
def applyMove (m : HostMove) (s : State) : Answer := applyMoveWith Params.standard m s

/-- What happens at a step boundary: the core steps, or the host moves (`60_exceptions.md` R258). -/
inductive Event where
  | step
  | host (m : HostMove)
  deriving DecidableEq, Repr

/-- One event. -/
def happen (e : Event) (s : State) : Answer :=
  match e with
  | .step => step s
  | .host m => applyMove m s

/-- A session: the events in their order, ending at the first fault or refusal. Steps on one state are totally ordered
(`60_exceptions.md` R257; log 22). -/
def runSession : List Event → State → Answer
  | [], s => .next s
  | e :: es, s =>
    match happen e s with
    | .next t => runSession es t
    | .fault r => .fault r
    | .refused r => .refused r

end Sys2Proof.Machine
end

