-- ==== Sys2Proof/Machine/Run.lean ====
section
/-! DEFINITION. The signal of a step (`41_phase_engine.md` R138), the step's full report (R130), and the run to halt
(`00_scope.md` R13). -/

namespace Sys2Proof.Machine

/-- The signal a step returns: Continue or Halt (`41_phase_engine.md` R130). -/
inductive Signal where
  | cont
  | halt
  deriving DecidableEq, Repr

/-- Halt exactly when the phase before the step is p2, p3 or p4 and IR = HLT (`41_phase_engine.md` R138). The signal is an
output of the step, not state: nothing latches it (log 8). -/
def signal (s : State) : Signal :=
  match s.phase, s.ir with
  | .p2, some .hlt => .halt
  | .p3, some .hlt => .halt
  | .p4, some .hlt => .halt
  | _, _ => .cont

/-- The outcome of a step as `41_phase_engine.md` R130 lists it. -/
inductive StepOutcome where
  | signalled (g : Signal)
  | invalidInstruction (b : Byte)
  deriving DecidableEq, Repr

/-- The report of a step: the state it leaves, readable by the host after every step (`10_state.md` R39), and its outcome;
`none` only where `step` refuses. -/
def stepReport (s : State) : Option (State × StepOutcome) :=
  match step s with
  | .next t => some (t, .signalled (signal s))
  | .fault (.invalidInstruction b) => some (stateAfterDecodeFault s, .invalidInstruction b)
  | .refused _ => none

/-- How a run stands after at most some number of steps (`00_scope.md` R13; log 9). -/
inductive RunEnd where
  /-- The run ended at a step that returned Halt; the state after that step. -/
  | halted (s : State)
  /-- The run ended at a step that raised InvalidInstruction; the state it left. -/
  | invalid (s : State) (b : Byte)
  /-- No end of run within the steps given. -/
  | running (s : State)
  /-- A step was refused; no constructed state reaches this. -/
  | stuck
  deriving DecidableEq, Repr

/-- Runs to the first Halt or InvalidInstruction, within a number of steps (`00_scope.md` R13). -/
def runToEnd : Nat → State → RunEnd
  | 0, s => .running s
  | n + 1, s =>
    match stepReport s with
    | some (t, .signalled .cont) => runToEnd n t
    | some (t, .signalled .halt) => .halted t
    | some (t, .invalidInstruction b) => .invalid t b
    | none => .stuck

end Sys2Proof.Machine
end

