-- ==== Sys2Proof/Safety.lean ====
section
/-! DEFINITION. What a good state and a safe step are, in the terms the claims use. -/

namespace Sys2Proof.Machine

/-- The phases in which IR is interpreted (`41_phase_engine.md` R134). -/
def isExecutePhase : Phase → Bool
  | .p0 | .p1 => false
  | .p2 | .p3 | .p4 => true

/-- The invariant of every constructed run: memory is in its canonical form (every listed byte lies in one of the two
segments), and IR holds an instruction whenever a phase reads it (`41_phase_engine.md` R140). -/
def Inv (s : State) : Prop := Memory.wf s.mem = true ∧ (isExecutePhase s.phase = true → s.ir.isSome = true)

/-- The next step is the one step that may raise: a p1 whose byte is illegal (`41_phase_engine.md` R140). -/
def aboutToFault (s : State) : Bool := s.phase == .p1 && illegalOpcodes.contains (s.byteAt .text s.mar)

/-- The states a host session reaches from a construction (`60_exceptions.md` R256 to R259). -/
def Reachable (t : State) : Prop :=
  ∃ program data s es, construct program data = .state s ∧ runSession es s = .next t

/-- The position of a phase in its cycle. -/
def phaseIndex : Phase → Nat
  | .p0 => 0
  | .p1 => 1
  | .p2 => 2
  | .p3 => 3
  | .p4 => 4

/-- The phase a binary operation computes in (`45_binary_ops.md` R220). -/
def computePhase : LoadMode → Phase
  | .accd | .ixd => .p2
  | .imm => .p3
  | .abst | .absd | .relt | .reld => .p4

end Sys2Proof.Machine
end

