-- ==== Sys2Proof/Certificates/Slice0/Obligations.lean ====
section
/-! DEFINITION. The statements for the provers. An equation `exec i s = .next { s with … }` is a frame: every field it does
not name, memory included, is unchanged. -/

open Sys2Proof Sys2Proof.Machine

/-! Encoding -/

/-- Reading back the bytes written for a well-formed line of code gives the line, with every operand byte, whatever
follows it. The encoder's choice among the encodings of one instruction is the model's (log 23), its branch codes are
the default map (log 1). -/
def Obligations.DecodeEncodeRoundTrip : Prop :=
  ∀ (l : CodeLine) (rest : List Byte), l.wf = true → decodeLine (encode l ++ rest) = .line l rest

/-- A byte decodes to an instruction exactly when it is legal and its canonical form is the instruction's opcode byte
(`30_encoding.md` R90, R91; default branch codes, log 1; canonical forms, log 23). -/
def Obligations.DecodeMatchesCanonicalOpcode : Prop :=
  ∀ (b : Byte) (i : Instr),
    decode b = .instr i ↔ ¬ b ∈ illegalOpcodes ∧ canonicalOpcode b = encodeOpcode i

/-- Under every branch map exactly the eight bytes fail to decode, with the byte itself; a p1 that fetches one raises, and a
step that faults is a p1 that fetches one, so an illegal byte in an operand position is just data (`30_encoding.md` R90). -/
def Obligations.IllegalBytesAreExactlyEight : Prop :=
  (∀ (m : Nibble → Cond) (b : Byte),
    (b ∈ [0x70#8, 0x71#8, 0x72#8, 0x73#8, 0x78#8, 0x79#8, 0x7A#8, 0x7B#8] → decodeWith m b = .fail b) ∧
    (¬ b ∈ [0x70#8, 0x71#8, 0x72#8, 0x73#8, 0x78#8, 0x79#8, 0x7A#8, 0x7B#8] → ∃ i, decodeWith m b = .instr i)) ∧
  (∀ s : State, s.phase = .p1 →
    s.byteAt .text s.mar ∈ [0x70#8, 0x71#8, 0x72#8, 0x73#8, 0x78#8, 0x79#8, 0x7A#8, 0x7B#8] →
    step s = .fault (.invalidInstruction (s.byteAt .text s.mar))) ∧
  ∀ (s : State) (f : Fault), step s = .fault f → s.phase = .p1 ∧
    s.byteAt .text s.mar ∈ [0x70#8, 0x71#8, 0x72#8, 0x73#8, 0x78#8, 0x79#8, 0x7A#8, 0x7B#8]

/-- The opcode byte alone tells the length of the instruction it decodes to (`30_encoding.md` R73, a derived rule). -/
def Obligations.OpcodeByteTellsLength : Prop :=
  ∀ (m : Nibble → Cond) (b : Byte) (i : Instr), decodeWith m b = .instr i →
    i.length = (if b.extractLsb' 4 4 = 3#4 ∨ b.extractLsb' 4 4 = 7#4 ∨
      ((b.extractLsb' 4 4 = 6#4 ∨ 8#4 ≤ b.extractLsb' 4 4) ∧ 2#3 ≤ b.extractLsb' 0 3) then 2 else 1)

/-- Words written out bit by bit from the spec's encodings decode to their instructions; the branch words under the
default map (log 1). -/
def Obligations.SampleWordsDecode : Prop :=
  decode 0b00000000#8 = .instr .nop ∧ decode 0b01010110#8 = .instr .hlt ∧ decode 0b00010000#8 = .instr .out ∧
  decode 0b00011000#8 = .instr .inp ∧ decode 0b00101111#8 = .instr .scf ∧ decode 0b00110011#8 = .instr .bp ∧
  decode 0b00111000#8 = .instr .bvf ∧ decode 0b01001001#8 = .instr (.sla .ix) ∧
  decode 0b01000111#8 = .instr (.rll .acc) ∧ decode 0b01101010#8 = .instr (.ldImm .ix) ∧
  decode 0b01100101#8 = .instr (.ldAbsd .acc) ∧ decode 0b01110111#8 = .instr (.stReld .acc) ∧
  decode 0b10011101#8 = .instr (.adcAbsd .ix) ∧ decode 0b11100110#8 = .instr (.andRelt .acc) ∧
  decode 0b11111011#8 = .instr (.cmpImm .ix)

/-- The classes without fields decode by bit 3 alone, whatever the ignored bits (`30_encoding.md` R81, R82, R83, R86), under
every branch map. -/
def Obligations.ControlClassesDecode : Prop :=
  ∀ (m : Nibble → Cond) (ignored : BitVec 3) (low : Nibble),
    decodeWith m (0x0#4 ++ (0#1 ++ ignored)) = .instr .nop ∧ decodeWith m (0x0#4 ++ (1#1 ++ ignored)) = .instr .hlt ∧
    decodeWith m (0x1#4 ++ (0#1 ++ ignored)) = .instr .out ∧ decodeWith m (0x1#4 ++ (1#1 ++ ignored)) = .instr .inp ∧
    decodeWith m (0x2#4 ++ (0#1 ++ ignored)) = .instr .rcf ∧ decodeWith m (0x2#4 ++ (1#1 ++ ignored)) = .instr .scf ∧
    decodeWith m (0x5#4 ++ low) = .instr .hlt

/-- Classes 3, 4 and 6 to 15 decode their fields (`30_encoding.md` R84, R85, R87, R88, R89), under every branch map. -/
def Obligations.FieldClassesDecode : Prop :=
  ∀ (m : Nibble → Cond) (code : Nibble) (bit : BitVec 1) (r : Reg), (r = if bit = 1#1 then .ix else .acc) →
    decodeWith m (0x3#4 ++ code) = .instr (m code).toInstr ∧
    (∀ sm : ShiftMode, ∀ n : BitVec 2,
      (n = match sm with | .ra => 0#2 | .la => 1#2 | .rl => 2#2 | .ll => 3#2) →
      decodeWith m (0x4#4 ++ (bit ++ (0#1 ++ n))) = .instr (sm.shiftInstr r) ∧
      decodeWith m (0x4#4 ++ (bit ++ (1#1 ++ n))) = .instr (sm.rotateInstr r)) ∧
    (∀ lm : LoadMode, ∀ n : BitVec 3,
      (match lm with
        | .accd => n = 0#3 | .ixd => n = 1#3 | .imm => n = 2#3 ∨ n = 3#3
        | .abst => n = 4#3 | .absd => n = 5#3 | .relt => n = 6#3 | .reld => n = 7#3) →
      decodeWith m (0x6#4 ++ (bit ++ n)) = .instr (lm.loadInstr r) ∧
      ∀ op : BinOp, ∀ c : Nibble,
        (c = match op with
          | .sbc => 8#4 | .adc => 9#4 | .sub => 10#4 | .add => 11#4
          | .eor => 12#4 | .or => 13#4 | .and => 14#4 | .cmp => 15#4) →
        decodeWith m (c ++ (bit ++ n)) = .instr (op.binaryInstr r lm)) ∧
    (∀ sm : StoreMode, ∀ n : BitVec 3,
      (n = match sm with | .abst => 4#3 | .absd => 5#3 | .relt => 6#3 | .reld => 7#3) →
      decodeWith m (0x7#4 ++ (bit ++ n)) = .instr (sm.storeInstr r)) ∧
    (∀ n : BitVec 3, n < 4#3 → decodeWith m (0x7#4 ++ (bit ++ n)) = .fail (0x7#4 ++ (bit ++ n)))

/-! The step and its phases -/

/-- In an execute phase the step is `exec` of the instruction in IR; and an opcode at PC that decodes to i is, after the
two fetch steps, the instruction in IR that the next step executes (`41_phase_engine.md` R132, R133, R134). -/
def Obligations.StepRunsDecodedInstruction : Prop :=
  (∀ (s : State) (i : Instr), isExecutePhase s.phase = true → s.ir = some i → step s = exec i s) ∧
  ∀ (s : State) (i : Instr), s.phase = .p0 → decode (s.byteAt .text s.pc) = .instr i →
    ∃ t, stepTimes 2 s = .next t ∧ t = { s with mar := s.pc, pc := s.pc + 1#8, ir := some i, phase := .p2 } ∧
      step t = exec i t

/-- p0 of every cycle (`41_phase_engine.md` R132). -/
def Obligations.OpcodeAddressPhase : Prop :=
  ∀ s : State, s.phase = .p0 →
    step s = .next { s with mar := s.pc, pc := s.pc + 1#8, phase := .p1 } ∧ signal s = .cont

/-- p1 of every cycle, for every setting of the branch map: IR takes the decoded instruction and nothing else changes but
the phase, or the step raises with the byte; a halt decoded here signals Continue (`41_phase_engine.md` R133; that p1 does
not look at the old IR is the spec's decision D4, log 8). -/
def Obligations.OpcodeFetchPhase : Prop :=
  ∀ (p : Params) (s : State), s.phase = .p1 →
    (∀ i, decodeWith p.bcondMap (s.byteAt .text s.mar) = .instr i →
      stepWith p s = .next { s with ir := some i, phase := .p2 } ∧ signal s = .cont) ∧
    (∀ b, decodeWith p.bcondMap (s.byteAt .text s.mar) = .fail b →
      stepWith p s = .fault (.invalidInstruction b) ∧ b = s.byteAt .text s.mar)

/-- Every step that does not fault advances the phase by one position (`41_phase_engine.md` R135). -/
def Obligations.PhaseAdvancesByOne : Prop :=
  ∀ s t : State, step s = .next t →
    (s.phase = .p0 → t.phase = .p1) ∧ (s.phase = .p1 → t.phase = .p2) ∧ (s.phase = .p2 → t.phase = .p3) ∧
    (s.phase = .p3 → t.phase = .p4) ∧ (s.phase = .p4 → t.phase = .p0)

/-- After n steps the phase has moved n positions round the cycle of five (`41_phase_engine.md` R131, a derived rule). -/
def Obligations.PhaseOfNthStep : Prop :=
  ∀ (n : Nat) (s t : State), stepTimes n s = .next t → phaseIndex t.phase = (phaseIndex s.phase + n) % 5

/-- HLT signals Halt in each of its three execute phases, changes nothing but the phase there, and the step after them
fetches on; no other step signals Halt (the spec's decision D4, log 8: `41_phase_engine.md` R138, `42_control_io.md` R151). -/
def Obligations.HaltSignalsAndResumes : Prop :=
  (∀ s : State, signal s = .halt ↔ isExecutePhase s.phase = true ∧ s.ir = some .hlt) ∧
  (∀ s : State, s.phase = .p2 → exec .hlt s = .next { s with phase := .p3 }) ∧
  (∀ s : State, s.phase = .p3 → exec .hlt s = .next { s with phase := .p4 }) ∧
  (∀ s : State, s.phase = .p4 → exec .hlt s = .next { s with phase := .p0 }) ∧
  (∀ s : State, s.phase = .p2 → s.ir = some .hlt →
    stepTimes 4 s = .next { s with mar := s.pc, pc := s.pc + 1#8, phase := .p1 })

/-- The one fault is a p1 that reads an illegal byte; no instruction raises anything in its own phases
(`60_exceptions.md` R250). -/
def Obligations.OnlyIllegalOpcodeFetchFaults : Prop :=
  ∀ (s : State) (f : Fault), step s = .fault f ↔
    s.phase = .p1 ∧ s.byteAt .text s.mar ∈ [0x70#8, 0x71#8, 0x72#8, 0x73#8, 0x78#8, 0x79#8, 0x7A#8, 0x7B#8] ∧
      f = .invalidInstruction (s.byteAt .text s.mar)

/-- A cycle whose opcode is illegal: p0's effects stand, IR is not written, nothing else changes, and the phase the host
reads afterwards is p1 or p2, under every setting of PHASE_AFTER_DECODE_FAULT (`41_phase_engine.md` R136; decision D6, log 5,
log 6). -/
def Obligations.DecodeFaultKeepsFetchAddress : Prop :=
  (∀ s : State, s.phase = .p0 → s.byteAt .text s.pc ∈ illegalOpcodes →
    ∃ t u, step s = .next t ∧ stepReport t = some (u, .invalidInstruction (s.byteAt .text s.pc)) ∧
      (u = { s with mar := s.pc, pc := s.pc + 1#8, phase := .p1 } ∨
        u = { s with mar := s.pc, pc := s.pc + 1#8, phase := .p2 })) ∧
  ∀ (p : Params) (s : State), s.phase = .p1 →
    stateAfterDecodeFaultWith p s =
      { s with phase := match p.phaseAfterDecodeFault with | .staysP1 => .p1 | .advancesToP2 => .p2 }

/-- Under the invariant every step goes on, but for the p1 that is about to read an illegal byte
(`41_phase_engine.md` R140, a derived rule). -/
def Obligations.StepGoesOnUnlessAboutToFault : Prop :=
  ∀ s : State, Inv s → aboutToFault s = false → ∃ t, step s = .next t

/-- Every step and every host move keeps the invariant: memory canonical and inside the two segments, IR holding an
instruction wherever it is read. The form of memory and IR being able to hold none are the model's (log 17, log 7), the
host's moves the spec's decisions (D10, D11, D17; log 4, log 14). -/
def Obligations.InvariantKept : Prop :=
  (∀ s t : State, Inv s → step s = .next t → Inv t) ∧
  ∀ (m : HostMove) (s t : State), Inv s → applyMove m s = .next t → Inv t

/-- The invariant holds at reset. -/
def Obligations.InvariantAtReset : Prop := Inv State.reset

/-- Every state a host session reaches from a construction meets the invariant, and no step there is refused
(`41_phase_engine.md` R140). What a session may do between steps is the spec's own choice (decisions D10, D11, D17; log 4,
log 14); the invariant's terms are the model's (log 7, log 17). -/
def Obligations.ReachableStatesNeverRefused : Prop :=
  ∀ t : State, Reachable t → Inv t ∧ ∀ r : Refusal, step t ≠ .refused r

/-! Reset and construction -/

/-- The reset values (`10_state.md` R38); that IR is "no instruction" there is the model's reading of the spec's decision D7
and is not stated. -/
def Obligations.ResetStateValues : Prop :=
  State.reset.acc = 0x00#8 ∧ State.reset.ix = 0x00#8 ∧ State.reset.pc = 0x00#8 ∧ State.reset.mar = 0x00#8 ∧
  State.reset.flags = { zf := false, nf := false, vf := false, cf := false } ∧ State.reset.phase = .p0 ∧
  State.reset.ibuf = { value := 0x00#8, ready := false } ∧ State.reset.obuf = { value := 0x00#8, ready := false } ∧
  ∀ (g : Segment) (a : Byte), State.reset.byteAt g a = 0x00#8

/-- Construction from images of at most 256 bytes places each from address 0 of its segment with zeros after it, leaves
every other field but IR at its reset value (IR: log 7, not stated here), and starts with a p0 step to text address 0; a
longer image is rejected, never truncated (`70_reset_and_hazards.md` R270, R271); which error it answers is the model's
(log 25) and not stated. -/
def Obligations.ConstructionPlacesOrRejectsImages : Prop :=
  ∀ program data : List Byte,
    (program.length ≤ 256 → data.length ≤ 256 →
      ∃ s, construct program data = .state s ∧
        (∀ a : Byte, s.byteAt .text a = program.getD a.toNat 0x00#8) ∧
        (∀ a : Byte, s.byteAt .data a = data.getD a.toNat 0x00#8) ∧
        s = { State.reset with mem := s.mem, ir := s.ir } ∧
        step s = .next { s with mar := 0x00#8, pc := 0x01#8, phase := .p1 }) ∧
    (program.length > 256 ∨ data.length > 256 → ∃ e, construct program data = .rejected e)

/-! What writes each piece of state -/

/-- A step changes a byte of memory only in p4 of a store, only the byte at MAR in the segment the mode names, to the
register's value (`20_memory.md` R50, R51, R56). -/
def Obligations.MemoryWrittenOnlyByStores : Prop :=
  ∀ s t : State, Memory.wf s.mem = true → step s = .next t → ∀ (g : Segment) (a : Byte),
    t.byteAt g a ≠ s.byteAt g a →
    s.phase = .p4 ∧ a = s.mar ∧ ∃ r,
      (s.ir = some (.stAbst r) ∧ g = .text ∨ s.ir = some (.stRelt r) ∧ g = .text ∨
        s.ir = some (.stAbsd r) ∧ g = .data ∨ s.ir = some (.stReld r) ∧ g = .data) ∧ t.byteAt g a = s.reg r

/-- PC changes in exactly the three ways of `10_state.md` R25. -/
def Obligations.ProgramCounterChangesInThreeWays : Prop :=
  ∀ s t : State, step s = .next t → t.pc ≠ s.pc →
    (s.phase = .p0 ∧ t.mar = s.pc ∧ t.pc = s.pc + 1#8) ∨
    (s.phase = .p2 ∧ t.mar = s.pc ∧ t.pc = s.pc + 1#8 ∧
      ∃ i, s.ir = some i ∧
        ((∃ c, i.variant = .b c) ∨ (∃ r m, i.variant = .st r m) ∨
          (∃ r m, i.variant = .ld r m ∧ m ≠ .accd ∧ m ≠ .ixd) ∨
          (∃ op r m, i.variant = .bin op r m ∧ m ≠ .accd ∧ m ≠ .ixd))) ∨
    (s.phase = .p3 ∧ t.pc = s.byteAt .text s.mar ∧
      ∃ c : Cond, s.ir = some c.toInstr ∧ condHolds c s.flags s.ibuf.ready s.obuf.ready = true)

/-- MAR is written only by p0, by the operand-byte fetch, and by address resolution at p3 of a memory mode; IR only by p1
(`10_state.md` R26, R27). -/
def Obligations.AddressAndInstructionRegisterWriters : Prop :=
  ∀ s t : State, step s = .next t →
    (t.mar ≠ s.mar →
      (s.phase = .p0 ∧ t.mar = s.pc) ∨
      (s.phase = .p2 ∧ t.mar = s.pc ∧ ∃ i, s.ir = some i ∧ i.length = 2) ∨
      (s.phase = .p3 ∧ ∃ i d, s.ir = some i ∧ d = s.byteAt .text s.mar ∧
        (t.mar = d ∧ ((∃ r m, i.variant = .st r m ∧ (m = .abst ∨ m = .absd)) ∨
            (∃ r m, (i.variant = .ld r m ∨ ∃ op, i.variant = .bin op r m) ∧ (m = .abst ∨ m = .absd))) ∨
          t.mar = s.ix + d ∧ ((∃ r m, i.variant = .st r m ∧ (m = .relt ∨ m = .reld)) ∨
            (∃ r m, (i.variant = .ld r m ∨ ∃ op, i.variant = .bin op r m) ∧ (m = .relt ∨ m = .reld)))))) ∧
    (t.ir ≠ s.ir → s.phase = .p1)

/-- The writers of the flags: RCF and SCF the carry at p2, shifts and rotates the carry at p2 and the other three at p3,
binary operations all that `compute` gives in their compute phase; every other step leaves all four (the table of
`10_state.md` R29; that silence means unchanged is the spec's decision D16, log 13). -/
def Obligations.FlagWriters : Prop :=
  ∀ s t : State, step s = .next t → t.flags ≠ s.flags →
    ∃ i, s.ir = some i ∧
      ((s.phase = .p2 ∧ (i = .rcf ∨ i = .scf) ∧ t.flags = { s.flags with cf := t.flags.cf }) ∨
        (∃ r m, (i.variant = .sh r m ∨ i.variant = .rot r m) ∧
          (s.phase = .p2 ∧ t.flags = { s.flags with cf := t.flags.cf } ∨
            s.phase = .p3 ∧ t.flags.cf = s.flags.cf ∧ t.flags.vf = false)) ∨
        (∃ op r m, i.variant = .bin op r m ∧ s.phase = computePhase m ∧
          (op = .eor ∨ op = .or ∨ op = .and ∨ op = .cmp → t.flags.cf = s.flags.cf)))

/-- The writers of ACC and IX (`10_state.md` R24, a derived rule): input, and the destination register of a load, a shift or
rotate, or a binary operation. -/
def Obligations.GeneralRegisterWriters : Prop :=
  ∀ (s t : State) (q : Reg), step s = .next t → t.reg q ≠ s.reg q →
    ∃ i, s.ir = some i ∧
      ((i = .inp ∧ q = .acc ∧ s.phase = .p2) ∨
        (∃ m, i.variant = .ld q m ∧ s.phase = computePhase m) ∨
        (∃ m, (i.variant = .sh q m ∨ i.variant = .rot q m) ∧ s.phase = .p2) ∨
        (∃ op m, i.variant = .bin op q m ∧ s.phase = computePhase m))

/-- The core never writes IBUF.value and never sets IBUF.ready; it clears IBUF.ready only at p3 of input, writes OBUF.value
only at p2 of output, sets OBUF.ready only at p3 of output and never clears it (`10_state.md` R33, R34). -/
def Obligations.BufferWriters : Prop :=
  ∀ s t : State, step s = .next t →
    t.ibuf.value = s.ibuf.value ∧
    (t.ibuf.ready ≠ s.ibuf.ready → t.ibuf.ready = false ∧ s.phase = .p3 ∧ s.ir = some .inp) ∧
    (t.obuf.value ≠ s.obuf.value → t.obuf.value = s.acc ∧ s.phase = .p2 ∧ s.ir = some .out) ∧
    (t.obuf.ready ≠ s.obuf.ready → t.obuf.ready = true ∧ s.phase = .p3 ∧ s.ir = some .out)

/-- The host's moves: input may come at any boundary with any byte; the output's ready flag may be cleared exactly where
the parameter allows it (`60_exceptions.md` R259, R261; decisions D10, D11, D17, log 4, log 14). -/
def Obligations.HostMovesTouchOnlyTheBuffers : Prop :=
  ∀ (p : Params) (s : State),
    (∀ v, applyMoveWith p (.supplyInput v) s = .next { s with ibuf := { value := v, ready := true } }) ∧
    (p.hostMayClearObufReady = true →
      applyMoveWith p .clearOutputReady s = .next { s with obuf := { value := s.obuf.value, ready := false } }) ∧
    (p.hostMayClearObufReady = false → applyMoveWith p .clearOutputReady s = .refused .hostMoveNotAllowed)

/-- The register selector: 0 names ACC, 1 names IX; a write reads back and leaves the other register (`10_state.md` R22,
R23). -/
def Obligations.RegisterSelector : Prop :=
  ∀ (s : State) (r : Reg) (v : Byte),
    s.reg .acc = s.acc ∧ s.reg .ix = s.ix ∧ (s.setReg r v).reg r = v ∧
    (∀ q, q ≠ r → (s.setReg r v).reg q = s.reg q) ∧
    s.setReg r v = { s with acc := (s.setReg r v).acc, ix := (s.setReg r v).ix }

/-! Control, flag and input/output instructions -/

/-- NOP changes nothing but the phase, in each of its phases, and signals Continue (`42_control_io.md` R150). -/
def Obligations.NoOpHasNoEffect : Prop :=
  ∀ s : State,
    (s.phase = .p2 → exec .nop s = .next { s with phase := .p3 }) ∧
    (s.phase = .p3 → exec .nop s = .next { s with phase := .p4 }) ∧
    (s.phase = .p4 → exec .nop s = .next { s with phase := .p0 }) ∧
    (s.ir = some .nop → signal s = .cont) ∧
    (∀ ignored : BitVec 3, decode (0x0#4 ++ (0#1 ++ ignored)) = .instr .nop) ∧ Instr.length .nop = 1

/-- OUT by phase (`42_control_io.md` R153): it waits for nothing and leaves ACC. -/
def Obligations.OutputPhases : Prop :=
  ∀ s : State,
    (s.phase = .p2 → exec .out s = .next { s with obuf := { value := s.acc, ready := s.obuf.ready }, phase := .p3 }) ∧
    (s.phase = .p3 → exec .out s = .next { s with obuf := { value := s.obuf.value, ready := true }, phase := .p4 }) ∧
    (s.phase = .p4 → exec .out s = .next { s with phase := .p0 }) ∧
    (∀ ignored : BitVec 3, decode (0x1#4 ++ (0#1 ++ ignored)) = .instr .out) ∧ Instr.length .out = 1

/-- IN by phase (`42_control_io.md` R154): it does not wait, and IBUF.value stays. -/
def Obligations.InputPhases : Prop :=
  ∀ s : State,
    (s.phase = .p2 → exec .inp s = .next { s with acc := s.ibuf.value, phase := .p3 }) ∧
    (s.phase = .p3 → exec .inp s = .next { s with ibuf := { value := s.ibuf.value, ready := false }, phase := .p4 }) ∧
    (s.phase = .p4 → exec .inp s = .next { s with phase := .p0 }) ∧
    (∀ ignored : BitVec 3, decode (0x1#4 ++ (1#1 ++ ignored)) = .instr .inp) ∧ Instr.length .inp = 1

/-- RCF and SCF by phase: CF alone (`42_control_io.md` R155, R156). -/
def Obligations.CarryInstructionPhases : Prop :=
  ∀ s : State,
    (s.phase = .p2 →
      exec .rcf s = .next { s with flags := { s.flags with cf := false }, phase := .p3 } ∧
      exec .scf s = .next { s with flags := { s.flags with cf := true }, phase := .p3 }) ∧
    (s.phase = .p3 →
      exec .rcf s = .next { s with phase := .p4 } ∧ exec .scf s = .next { s with phase := .p4 }) ∧
    (s.phase = .p4 →
      exec .rcf s = .next { s with phase := .p0 } ∧ exec .scf s = .next { s with phase := .p0 }) ∧
    (∀ ignored : BitVec 3, decode (0x2#4 ++ (0#1 ++ ignored)) = .instr .rcf ∧
      decode (0x2#4 ++ (1#1 ++ ignored)) = .instr .scf) ∧ Instr.length .rcf = 1 ∧ Instr.length .scf = 1

/-! Branches -/

/-- The phases all sixteen branches share (ba, bvf, bnz, bz, bzp, bn, bp, bzn, bni, bno, bnc, bc, bge, blt, bgt, ble):
`42_control_io.md` R157. The predicates are `FlagBranchPredicates` and `HandshakeBranchPredicates`. -/
def Obligations.BranchPhases : Prop :=
  ∀ (c : Cond) (s : State),
    (s.phase = .p2 → exec c.toInstr s = .next { s with mar := s.pc, pc := s.pc + 1#8, phase := .p3 }) ∧
    (s.phase = .p3 → condHolds c s.flags s.ibuf.ready s.obuf.ready = true →
      exec c.toInstr s = .next { s with pc := s.byteAt .text s.mar, phase := .p4 }) ∧
    (s.phase = .p3 → condHolds c s.flags s.ibuf.ready s.obuf.ready = false →
      exec c.toInstr s = .next { s with phase := .p4 }) ∧
    (s.phase = .p4 → exec c.toInstr s = .next { s with phase := .p0 }) ∧
    c.toInstr.length = 2 ∧ ∀ (m : Nibble → Cond) (code : Nibble), m code = c → decodeWith m (0x3#4 ++ code) = .instr c.toInstr

/-- What the fourteen branches on flags do at p3: taken exactly when the predicate of their rule holds
(`42_control_io.md` R158 to R165, R168 to R173); and the opcode bytes of the default branch map, which is the model's
presumption (log 1). -/
def Obligations.FlagBranchPredicates : Prop :=
  ∀ (s : State) (jump stay : State), s.phase = .p3 →
    jump = { s with pc := s.byteAt .text s.mar, phase := .p4 } → stay = { s with phase := .p4 } →
    exec .ba s = .next jump ∧
    exec .bvf s = .next (if s.flags.vf = true then jump else stay) ∧
    exec .bnz s = .next (if s.flags.zf = false then jump else stay) ∧
    exec .bz s = .next (if s.flags.zf = true then jump else stay) ∧
    exec .bzp s = .next (if s.flags.nf = false then jump else stay) ∧
    exec .bn s = .next (if s.flags.nf = true then jump else stay) ∧
    exec .bp s = .next (if s.flags.nf = false ∧ s.flags.zf = false then jump else stay) ∧
    exec .bzn s = .next (if s.flags.zf = true ∨ s.flags.nf = true then jump else stay) ∧
    exec .bnc s = .next (if s.flags.cf = false then jump else stay) ∧
    exec .bc s = .next (if s.flags.cf = true then jump else stay) ∧
    exec .bge s = .next (if s.flags.vf = s.flags.nf then jump else stay) ∧
    exec .blt s = .next (if s.flags.vf ≠ s.flags.nf then jump else stay) ∧
    exec .bgt s = .next (if s.flags.vf = s.flags.nf ∧ s.flags.zf = false then jump else stay) ∧
    exec .ble s = .next (if s.flags.vf ≠ s.flags.nf ∨ s.flags.zf = true then jump else stay) ∧
    decode 0x30#8 = .instr .ba ∧ decode 0x38#8 = .instr .bvf ∧ decode 0x31#8 = .instr .bnz ∧ decode 0x39#8 = .instr .bz ∧
    decode 0x32#8 = .instr .bzp ∧ decode 0x3A#8 = .instr .bn ∧ decode 0x33#8 = .instr .bp ∧ decode 0x3B#8 = .instr .bzn ∧
    decode 0x35#8 = .instr .bnc ∧ decode 0x3D#8 = .instr .bc ∧ decode 0x36#8 = .instr .bge ∧ decode 0x3E#8 = .instr .blt ∧
    decode 0x37#8 = .instr .bgt ∧ decode 0x3F#8 = .instr .ble

/-- What BNI and BNO do at p3: taken exactly when the buffer's ready flag is false. That "empty" means not ready is the
spec's own reading (decision D8, log 11); the opcode bytes are the default map's (log 1). -/
def Obligations.HandshakeBranchPredicates : Prop :=
  ∀ (s : State) (jump stay : State), s.phase = .p3 →
    jump = { s with pc := s.byteAt .text s.mar, phase := .p4 } → stay = { s with phase := .p4 } →
    exec .bni s = .next (if s.ibuf.ready = false then jump else stay) ∧
    exec .bno s = .next (if s.obuf.ready = false then jump else stay) ∧
    decode 0x34#8 = .instr .bni ∧ decode 0x3C#8 = .instr .bno

/-! Load and store -/

/-- LD by mode and phase (ldAcc, ldIx, ldImm, ldAbst, ldAbsd, ldRelt, ldReld): `44_load_store.md` R201. -/
def Obligations.LoadPhases : Prop :=
  ∀ (r : Reg) (s : State),
    (s.phase = .p2 →
      exec (.ldAcc r) s = .next { s.setReg r s.acc with phase := .p3 } ∧
      exec (.ldIx r) s = .next { s.setReg r s.ix with phase := .p3 } ∧
      ∀ i ∈ [Instr.ldImm r, .ldAbst r, .ldAbsd r, .ldRelt r, .ldReld r],
        exec i s = .next { s with mar := s.pc, pc := s.pc + 1#8, phase := .p3 }) ∧
    (s.phase = .p3 →
      exec (.ldAcc r) s = .next { s with phase := .p4 } ∧ exec (.ldIx r) s = .next { s with phase := .p4 } ∧
      exec (.ldImm r) s = .next { s.setReg r (s.byteAt .text s.mar) with phase := .p4 } ∧
      (∀ i ∈ [Instr.ldAbst r, .ldAbsd r], exec i s = .next { s with mar := s.byteAt .text s.mar, phase := .p4 }) ∧
      ∀ i ∈ [Instr.ldRelt r, .ldReld r], exec i s = .next { s with mar := s.ix + s.byteAt .text s.mar, phase := .p4 }) ∧
    (s.phase = .p4 →
      (∀ i ∈ [Instr.ldAcc r, .ldIx r, .ldImm r], exec i s = .next { s with phase := .p0 }) ∧
      (∀ i ∈ [Instr.ldAbst r, .ldRelt r], exec i s = .next { s.setReg r (s.byteAt .text s.mar) with phase := .p0 }) ∧
      ∀ i ∈ [Instr.ldAbsd r, .ldReld r], exec i s = .next { s.setReg r (s.byteAt .data s.mar) with phase := .p0 }) ∧
    decode 0x60#8 = .instr (.ldAcc .acc) ∧ decode 0x69#8 = .instr (.ldIx .ix) ∧
    decode 0x62#8 = .instr (.ldImm .acc) ∧ decode 0x63#8 = .instr (.ldImm .acc) ∧
    decode 0x6A#8 = .instr (.ldImm .ix) ∧ decode 0x6B#8 = .instr (.ldImm .ix)

/-- ST by mode and phase (stAbst, stAbsd, stRelt, stReld): `44_load_store.md` R205. At p4 the byte at MAR in the mode's
segment takes the register's value, every other byte reads as before, and nothing else changes but the phase. The encodings with m below 4 never become a
store. -/
def Obligations.StorePhases : Prop :=
  ∀ (r : Reg) (s : State),
    (s.phase = .p2 → ∀ i ∈ [Instr.stAbst r, .stAbsd r, .stRelt r, .stReld r],
      exec i s = .next { s with mar := s.pc, pc := s.pc + 1#8, phase := .p3 }) ∧
    (s.phase = .p3 →
      (∀ i ∈ [Instr.stAbst r, .stAbsd r], exec i s = .next { s with mar := s.byteAt .text s.mar, phase := .p4 }) ∧
      ∀ i ∈ [Instr.stRelt r, .stReld r], exec i s = .next { s with mar := s.ix + s.byteAt .text s.mar, phase := .p4 }) ∧
    (s.phase = .p4 → Memory.wf s.mem = true →
      ∀ x ∈ [(Instr.stAbst r, Segment.text), (.stRelt r, .text), (.stAbsd r, .data), (.stReld r, .data)],
        ∃ t, exec x.1 s = .next t ∧ t = { s with mem := t.mem, phase := .p0 } ∧ t.byteAt x.2 s.mar = s.reg r ∧
          ∀ (g : Segment) (a : Byte), ¬ (g = x.2 ∧ a = s.mar) → t.byteAt g a = s.byteAt g a) ∧
    ∀ (bit : BitVec 1) (n : BitVec 3), n < 4#3 → decode (0x7#4 ++ (bit ++ n)) = .fail (0x7#4 ++ (bit ++ n))

/-! Binary operations -/

/-- The phases in which a binary operation does not compute, for all eight operations and seven modes
(`45_binary_ops.md` R221). -/
def Obligations.BinaryAddressPhases : Prop :=
  ∀ (op : BinOp) (r : Reg) (m : LoadMode) (s : State),
    (s.phase = .p2 → m ≠ .accd → m ≠ .ixd →
      exec (op.binaryInstr r m) s = .next { s with mar := s.pc, pc := s.pc + 1#8, phase := .p3 }) ∧
    (s.phase = .p3 → m = .accd ∨ m = .ixd → exec (op.binaryInstr r m) s = .next { s with phase := .p4 }) ∧
    (s.phase = .p3 → m = .abst ∨ m = .absd →
      exec (op.binaryInstr r m) s = .next { s with mar := s.byteAt .text s.mar, phase := .p4 }) ∧
    (s.phase = .p3 → m = .relt ∨ m = .reld →
      exec (op.binaryInstr r m) s = .next { s with mar := s.ix + s.byteAt .text s.mar, phase := .p4 }) ∧
    (s.phase = .p4 → m = .accd ∨ m = .ixd ∨ m = .imm → exec (op.binaryInstr r m) s = .next { s with phase := .p0 })

/-- SBC in its compute phase, all seven modes (sbcAcc, sbcIx, sbcImm, sbcAbst, sbcAbsd, sbcRelt, sbcReld): the carry is
added to the difference (`45_binary_ops.md` R226, `40_alu.md` R101, R108, R109, R111). The carry flag is that of signed
widening (decision D2, log 2), the overflow test the addition's (D13, log 19), the direct modes' operand the register the
mode names (D3, log 10), and the operand of the data modes TEXT[MAR], the default of BINOP_DATA_OPERAND_SEGMENT
(`45_binary_ops.md` R221, R222; D9, log 3). -/
def Obligations.SbcComputePhase : Prop :=
  ∀ (r : Reg) (m : LoadMode) (s : State) (x res : Byte) (w : Int),
    s.phase = computePhase m →
    (x = match m with | .accd => s.acc | .ixd => s.ix | _ => s.byteAt .text s.mar) →
    w = s8 (s.reg r) - s8 x + (if s.flags.cf = true then 1 else 0) →
    res = s.reg r - x + (if s.flags.cf = true then 1#8 else 0#8) →
    exec (BinOp.binaryInstr r .sbc m) s = .next { s.setReg r res with
      flags := {
        zf := decide (res = 0#8), nf := res.msb
        vf := decide ((s8 (s.reg r) > 0 ∧ s8 x > 0 ∧ s8 res < 0) ∨ (s8 (s.reg r) < 0 ∧ s8 x < 0 ∧ s8 res > 0))
        cf := decide (w < 0 ∨ w > 255) }
      phase := nextPhase s.phase }

/-- ADC in its compute phase, all seven modes (adcAcc, adcIx, adcImm, adcAbst, adcAbsd, adcRelt, adcReld):
`45_binary_ops.md` R221, R222, R227, `40_alu.md` R102, R108, R109, R111 (signed widening, log 2; direct operand, log 10; data
modes read TEXT[MAR], the default of BINOP_DATA_OPERAND_SEGMENT, log 3). -/
def Obligations.AdcComputePhase : Prop :=
  ∀ (r : Reg) (m : LoadMode) (s : State) (x res : Byte) (w : Int),
    s.phase = computePhase m →
    (x = match m with | .accd => s.acc | .ixd => s.ix | _ => s.byteAt .text s.mar) →
    w = s8 (s.reg r) + s8 x + (if s.flags.cf = true then 1 else 0) →
    res = s.reg r + x + (if s.flags.cf = true then 1#8 else 0#8) →
    exec (BinOp.binaryInstr r .adc m) s = .next { s.setReg r res with
      flags := {
        zf := decide (res = 0#8), nf := res.msb
        vf := decide ((s8 (s.reg r) > 0 ∧ s8 x > 0 ∧ s8 res < 0) ∨ (s8 (s.reg r) < 0 ∧ s8 x < 0 ∧ s8 res > 0))
        cf := decide (w < 0 ∨ w > 255) }
      phase := nextPhase s.phase }

/-- SUB in its compute phase, all seven modes (subAcc, subIx, subImm, subAbst, subAbsd, subRelt, subReld):
`45_binary_ops.md` R221, R222, R228, `40_alu.md` R103, R108, R109, R111 (signed widening, log 2; overflow test, log 19; direct
operand, log 10; data modes read TEXT[MAR], the default of BINOP_DATA_OPERAND_SEGMENT, log 3). -/
def Obligations.SubComputePhase : Prop :=
  ∀ (r : Reg) (m : LoadMode) (s : State) (x res : Byte) (w : Int),
    s.phase = computePhase m →
    (x = match m with | .accd => s.acc | .ixd => s.ix | _ => s.byteAt .text s.mar) →
    w = s8 (s.reg r) - s8 x → res = s.reg r - x →
    exec (BinOp.binaryInstr r .sub m) s = .next { s.setReg r res with
      flags := {
        zf := decide (res = 0#8), nf := res.msb
        vf := decide ((s8 (s.reg r) > 0 ∧ s8 x > 0 ∧ s8 res < 0) ∨ (s8 (s.reg r) < 0 ∧ s8 x < 0 ∧ s8 res > 0))
        cf := decide (w < 0 ∨ w > 255) }
      phase := nextPhase s.phase }

/-- ADD in its compute phase, all seven modes (addAcc, addIx, addImm, addAbst, addAbsd, addRelt, addReld):
`45_binary_ops.md` R221, R222, R229, `40_alu.md` R104, R108, R109, R111 (signed widening, log 2; direct operand, log 10; data
modes read TEXT[MAR], the default of BINOP_DATA_OPERAND_SEGMENT, log 3). -/
def Obligations.AddComputePhase : Prop :=
  ∀ (r : Reg) (m : LoadMode) (s : State) (x res : Byte) (w : Int),
    s.phase = computePhase m →
    (x = match m with | .accd => s.acc | .ixd => s.ix | _ => s.byteAt .text s.mar) →
    w = s8 (s.reg r) + s8 x → res = s.reg r + x →
    exec (BinOp.binaryInstr r .add m) s = .next { s.setReg r res with
      flags := {
        zf := decide (res = 0#8), nf := res.msb
        vf := decide ((s8 (s.reg r) > 0 ∧ s8 x > 0 ∧ s8 res < 0) ∨ (s8 (s.reg r) < 0 ∧ s8 x < 0 ∧ s8 res > 0))
        cf := decide (w < 0 ∨ w > 255) }
      phase := nextPhase s.phase }

/-- EOR, OR and AND in their compute phase, all seven modes each (eorAcc … eorReld, orAcc … orReld, andAcc … andReld):
overflow false, carry unchanged (`45_binary_ops.md` R220, R221, R222, R230, R231, R232; direct operand, log 10; data modes
read TEXT[MAR], the default of BINOP_DATA_OPERAND_SEGMENT, log 3). -/
def Obligations.LogicComputePhase : Prop :=
  ∀ (r : Reg) (m : LoadMode) (s : State) (x : Byte),
    s.phase = computePhase m →
    (x = match m with | .accd => s.acc | .ixd => s.ix | _ => s.byteAt .text s.mar) →
    ∀ z ∈ [(BinOp.eor, s.reg r ^^^ x), (.or, s.reg r ||| x), (.and, s.reg r &&& x)],
      exec (z.1.binaryInstr r m) s = .next { s.setReg r z.2 with
        flags := { zf := decide (z.2 = 0#8), nf := z.2.msb, vf := false, cf := s.flags.cf }
        phase := nextPhase s.phase }

/-- CMP in its compute phase, all seven modes (cmpAcc, cmpIx, cmpImm, cmpAbst, cmpAbsd, cmpRelt, cmpReld): the difference
overwrites the register and the carry is unchanged (`45_binary_ops.md` R220 to R223, R233, `40_alu.md` R110; that this
holds in every mode is the spec's decision D14, log 12; overflow test, log 19; direct operand, log 10; data modes read
TEXT[MAR], the default of BINOP_DATA_OPERAND_SEGMENT, log 3). -/
def Obligations.CmpComputePhase : Prop :=
  ∀ (r : Reg) (m : LoadMode) (s : State) (x res : Byte),
    s.phase = computePhase m →
    (x = match m with | .accd => s.acc | .ixd => s.ix | _ => s.byteAt .text s.mar) →
    res = s.reg r - x →
    exec (BinOp.binaryInstr r .cmp m) s = .next { s.setReg r res with
      flags := {
        zf := decide (res = 0#8), nf := res.msb
        vf := decide ((s8 (s.reg r) > 0 ∧ s8 x > 0 ∧ s8 res < 0) ∨ (s8 (s.reg r) < 0 ∧ s8 x < 0 ∧ s8 res > 0))
        cf := s.flags.cf }
      phase := nextPhase s.phase }

/-- With BINOP_DATA_OPERAND_SEGMENT = text, the default (decision D9, log 3), the data modes of a binary operation behave in every phase
exactly as the text modes, and the operand of all four memory modes is TEXT[MAR]; with the switch set to data, p4 of the
data modes computes with DATA[MAR] where it computed with TEXT[MAR], and no other phase or mode differs
(`45_binary_ops.md` R222). The p4 clause of `exec` has the signed widening of the default (D2, log 2); the clauses on
`execWith` hold for both. -/
def Obligations.BinaryDataModesReadText : Prop :=
  ∀ (op : BinOp) (r : Reg) (s : State),
    exec (op.binaryInstr r .absd) s = exec (op.binaryInstr r .abst) s ∧
    exec (op.binaryInstr r .reld) s = exec (op.binaryInstr r .relt) s ∧
    (s.phase = .p4 → ∀ m ∈ [LoadMode.abst, .relt, .absd, .reld],
      exec (op.binaryInstr r m) s = .next { s.setReg r (compute .signed op (s.reg r) (s.byteAt .text s.mar) s.flags).1 with
        flags := (compute .signed op (s.reg r) (s.byteAt .text s.mar) s.flags).2, phase := .p0 }) ∧
    ∀ p q : Params, p.binopDataOperandSegment = .data →
      q = { p with binopDataOperandSegment := .text } →
      (∀ m, m ≠ .absd → m ≠ .reld → execWith p (op.binaryInstr r m) s = execWith q (op.binaryInstr r m) s) ∧
      ∀ m ∈ [LoadMode.absd, .reld],
        (s.phase = .p4 →
          execWith p (op.binaryInstr r m) s = .next { s.setReg r (compute p.aluWiden op (s.reg r) (s.byteAt .data s.mar) s.flags).1 with
            flags := (compute p.aluWiden op (s.reg r) (s.byteAt .data s.mar) s.flags).2, phase := .p0 } ∧
          execWith q (op.binaryInstr r m) s = .next { s.setReg r (compute p.aluWiden op (s.reg r) (s.byteAt .text s.mar) s.flags).1 with
            flags := (compute p.aluWiden op (s.reg r) (s.byteAt .text s.mar) s.flags).2, phase := .p0 }) ∧
        (s.phase ≠ .p4 → execWith p (op.binaryInstr r m) s = execWith q (op.binaryInstr r m) s)

/-! Shifts and rotates -/

/-- The four shifts by phase (sra, sla, srl, sll): the register and CF at p2, the other flags from the updated register at
p3 (`43_shift_rotate.md` R180 to R184). -/
def Obligations.ShiftPhases : Prop :=
  ∀ (r : Reg) (s : State) (v : Byte), v = s.reg r →
    (s.phase = .p2 →
      exec (.sra r) s = .next { s.setReg r (v.sshiftRight 1) with flags := { s.flags with cf := v.getLsbD 0 }, phase := .p3 } ∧
      exec (.sla r) s = .next { s.setReg r ((v &&& 0x80#8) ||| ((v <<< 1) &&& 0x7F#8)) with
        flags := { s.flags with cf := v.msb }, phase := .p3 } ∧
      exec (.srl r) s = .next { s.setReg r (v >>> 1) with flags := { s.flags with cf := v.getLsbD 0 }, phase := .p3 } ∧
      exec (.sll r) s = .next { s.setReg r (v <<< 1) with flags := { s.flags with cf := v.msb }, phase := .p3 }) ∧
    (s.phase = .p3 → ∀ i ∈ [Instr.sra r, .sla r, .srl r, .sll r],
      exec i s = .next { s with
        flags := { zf := decide (v = 0#8), nf := v.msb, vf := false, cf := s.flags.cf }, phase := .p4 }) ∧
    (s.phase = .p4 → ∀ i ∈ [Instr.sra r, .sla r, .srl r, .sll r], exec i s = .next { s with phase := .p0 }) ∧
    decode 0x40#8 = .instr (.sra .acc) ∧ decode 0x48#8 = .instr (.sra .ix) ∧ decode 0x41#8 = .instr (.sla .acc) ∧
    decode 0x49#8 = .instr (.sla .ix) ∧ decode 0x42#8 = .instr (.srl .acc) ∧ decode 0x4A#8 = .instr (.srl .ix) ∧
    decode 0x43#8 = .instr (.sll .acc) ∧ decode 0x4B#8 = .instr (.sll .ix)

/-- The four rotates by phase (rra, rla, rrl, rll): rra and rla rotate through the carry before the step, rrl and rll rotate
the byte alone (`43_shift_rotate.md` R180, R185 to R188). -/
def Obligations.RotatePhases : Prop :=
  ∀ (r : Reg) (s : State) (v : Byte), v = s.reg r →
    (s.phase = .p2 →
      exec (.rra r) s = .next { s.setReg r ((v >>> 1) ||| (if s.flags.cf = true then 0x80#8 else 0x00#8)) with
        flags := { s.flags with cf := v.getLsbD 0 }, phase := .p3 } ∧
      exec (.rla r) s = .next { s.setReg r ((v <<< 1) ||| (if s.flags.cf = true then 0x01#8 else 0x00#8)) with
        flags := { s.flags with cf := v.msb }, phase := .p3 } ∧
      exec (.rrl r) s = .next { s.setReg r (v.rotateRight 1) with flags := { s.flags with cf := v.getLsbD 0 }, phase := .p3 } ∧
      exec (.rll r) s = .next { s.setReg r (v.rotateLeft 1) with flags := { s.flags with cf := v.msb }, phase := .p3 }) ∧
    (s.phase = .p3 → ∀ i ∈ [Instr.rra r, .rla r, .rrl r, .rll r],
      exec i s = .next { s with
        flags := { zf := decide (v = 0#8), nf := v.msb, vf := false, cf := s.flags.cf }, phase := .p4 }) ∧
    (s.phase = .p4 → ∀ i ∈ [Instr.rra r, .rla r, .rrl r, .rll r], exec i s = .next { s with phase := .p0 }) ∧
    decode 0x44#8 = .instr (.rra .acc) ∧ decode 0x4C#8 = .instr (.rra .ix) ∧ decode 0x45#8 = .instr (.rla .acc) ∧
    decode 0x4D#8 = .instr (.rla .ix) ∧ decode 0x46#8 = .instr (.rrl .acc) ∧ decode 0x4E#8 = .instr (.rrl .ix) ∧
    decode 0x47#8 = .instr (.rll .acc) ∧ decode 0x4F#8 = .instr (.rll .ix)

/-! The arithmetic, shift and rotate unit -/

/-- The eight shift and rotate functions bit by bit (`40_alu.md` R116 to R119, R121 to R124). -/
def Obligations.ShiftAndRotateBits : Prop :=
  ∀ (v : Byte) (cin : Bool),
    (∀ i, i < 7 →
      (shift v .ra).1.getLsbD i = v.getLsbD (i + 1) ∧ (shift v .rl).1.getLsbD i = v.getLsbD (i + 1) ∧
      (shift v .ll).1.getLsbD (i + 1) = v.getLsbD i ∧ (i < 6 → (shift v .la).1.getLsbD (i + 1) = v.getLsbD i) ∧
      (rotate v .ra cin).1.getLsbD i = v.getLsbD (i + 1) ∧ (rotate v .la cin).1.getLsbD (i + 1) = v.getLsbD i ∧
      (rotate v .rl cin).1.getLsbD i = v.getLsbD (i + 1) ∧ (rotate v .ll cin).1.getLsbD (i + 1) = v.getLsbD i) ∧
    (shift v .ra).1.getLsbD 7 = v.getLsbD 7 ∧ (shift v .ra).2 = v.getLsbD 0 ∧
    (shift v .la).1.getLsbD 7 = v.getLsbD 7 ∧ (shift v .la).1.getLsbD 0 = false ∧ (shift v .la).2 = v.getLsbD 7 ∧
    (shift v .rl).1.getLsbD 7 = false ∧ (shift v .rl).2 = v.getLsbD 0 ∧
    (shift v .ll).1.getLsbD 0 = false ∧ (shift v .ll).2 = v.getLsbD 7 ∧
    (rotate v .ra cin).1.getLsbD 7 = cin ∧ (rotate v .ra cin).2 = v.getLsbD 0 ∧
    (rotate v .la cin).1.getLsbD 0 = cin ∧ (rotate v .la cin).2 = v.getLsbD 7 ∧
    (rotate v .rl cin).1.getLsbD 7 = v.getLsbD 0 ∧ (rotate v .rl cin).2 = v.getLsbD 0 ∧
    (rotate v .ll cin).1.getLsbD 0 = v.getLsbD 7 ∧ (rotate v .ll cin).2 = v.getLsbD 7

/-- The through-carry rotates undo each other when the carry is chained, and the arithmetic shifts keep bit 7
(`40_alu.md` R125). -/
def Obligations.ThroughCarryRotatesInvert : Prop :=
  ∀ (v : Byte) (c : Bool),
    ((shift v .ra).2 = v.getLsbD 0 ∧ (shift v .ra).1.getLsbD 7 = v.getLsbD 7) ∧
    ((shift v .la).2 = v.getLsbD 7 ∧ (shift v .la).1.getLsbD 7 = v.getLsbD 7) ∧
    rotate (rotate v .ra c).1 .la (rotate v .ra c).2 = (v, c) ∧
    rotate (rotate v .la c).1 .ra (rotate v .la c).2 = (v, c)

/-- The carry out of `compute` under either widening (`40_alu.md` R108): for SBC, ADC, SUB and ADD it is whether bits 15:8 of
the widened result w, a two's-complement number of 16 bits, are not all zero, which under signed widening is w < 0 or
w > 255 with w from -256 to 256; CMP, EOR, OR and AND pass CF through. -/
def Obligations.CarryFlagRule : Prop :=
  ∀ (wd : AluWiden) (b o : Byte) (f : Flags) (x y c : Int),
    (x = match wd with | .signed => s8 b | .unsigned => (u8 b : Int)) →
    (y = match wd with | .signed => s8 o | .unsigned => (u8 o : Int)) →
    (c = if f.cf = true then 1 else 0) →
    (∀ z ∈ [(BinOp.sbc, x - (y - c)), (.adc, x + (y + c)), (.sub, x - y), (.add, x + y)],
      (compute wd z.1 b o f).2.cf = decide ((z.2 % 65536) / 256 ≠ 0) ∧
      (wd = .signed → -256 ≤ z.2 ∧ z.2 ≤ 256 ∧ (compute wd z.1 b o f).2.cf = decide (z.2 < 0 ∨ z.2 > 255))) ∧
    ∀ op ∈ [BinOp.cmp, .eor, .or, .and], (compute wd op b o f).2.cf = f.cf

/-- The two widenings agree on the result and on ZF, NF and VF, for every operation and input; only CF can differ, and only
for SBC, ADC, SUB and ADD (`40_alu.md` R112; which setting runs is decision D2, log 2). -/
def Obligations.WideningOnlyAffectsCarry : Prop :=
  ∀ (op : BinOp) (b o : Byte) (f : Flags),
    (compute .unsigned op b o f).1 = (compute .signed op b o f).1 ∧
    (compute .unsigned op b o f).2 = { (compute .signed op b o f).2 with cf := (compute .unsigned op b o f).2.cf } ∧
    (op = .cmp ∨ op = .eor ∨ op = .or ∨ op = .and → compute .unsigned op b o f = compute .signed op b o f)

/-- After CMP of two positive numbers the signed branches do not tell their order: BLT is never taken and BGE always is,
because the overflow test is the addition's (`42_control_io.md` R174, a derived rule; log 19). -/
def Obligations.SignedBranchAfterCompareOfPositives : Prop :=
  ∀ (wd : AluWiden) (b o : Byte) (f : Flags) (i q : Bool), s8 b > 0 → s8 o > 0 →
    condHolds .signedLt (compute wd .cmp b o f).2 i q = false ∧
    condHolds .signedGe (compute wd .cmp b o f).2 i q = true

/-! Whole-machine statements -/

/-- The five phase steps of an instruction cycle compute the instruction-level effect, for every instruction and every
state at p0 (`41_phase_engine.md` R131, R139; default parameters, log 1, log 2, log 3). -/
def Obligations.FiveStepsComputeInstruction : Prop :=
  ∀ (s : State) (i : Instr), s.phase = .p0 → decode (s.byteAt .text s.pc) = .instr i →
    stepTimes 5 s = .next (cycleEffect i s)

/-- What IR holds at p0 has no influence: the two fetch steps give the same from any content of IR, so a halt left in IR
does not stop the next fetch (`41_phase_engine.md` R133; decision D4, log 8). -/
def Obligations.InstructionRegisterNotInterpretedInFetch : Prop :=
  ∀ (p : Params) (s t : State) (j : Option Instr), s.phase = .p0 →
    (stepWith p s = .next t ↔ stepWith p { s with ir := j } = .next { t with ir := j } ∧ t.ir = s.ir) ∧
    stepTimes 2 { s with ir := j } = stepTimes 2 s

/-- OBUF.ready has no influence on any step but p3 of BNO (`60_exceptions.md` R261): from states that differ in it alone,
steps lead to states that differ in it alone. -/
def Obligations.OutputReadySeenOnlyByBno : Prop :=
  ∀ (s t : State) (x : Bool), step s = .next t → ¬ (s.phase = .p3 ∧ s.ir = some .bno) →
    ∃ y, step { s with obuf := { value := s.obuf.value, ready := x } } =
      .next { t with obuf := { value := t.obuf.value, ready := y } }

/-- The data segment has no influence on any step but p4 of a load in a data mode (`20_memory.md` R51; the binary operations'
default segment, log 3): with other memory whose text segment reads the same, every other field comes out the same; and, the
two memories being canonical, the text segment does, and a data byte either comes out the same in both or is kept in both. -/
def Obligations.DataSegmentReadOnlyByDataLoads : Prop :=
  ∀ (s t : State) (m : Memory),
    (∀ a : Byte, Memory.read m (physical .text a) = s.byteAt .text a) →
    (∀ r, ¬ (s.phase = .p4 ∧ (s.ir = some (.ldAbsd r) ∨ s.ir = some (.ldReld r)))) →
    step s = .next t →
    ∃ m', step { s with mem := m } = .next { t with mem := m' } ∧
      (Memory.wf s.mem = true → Memory.wf m = true →
        (∀ a : Byte, Memory.read m' (physical .text a) = t.byteAt .text a) ∧
        ∀ a : Byte, Memory.read m' (physical .data a) = t.byteAt .data a ∨
          (Memory.read m' (physical .data a) = Memory.read m (physical .data a) ∧ t.byteAt .data a = s.byteAt .data a))

/-- A store into the text byte that PC names is seen by the very next fetch (`20_memory.md` R64, a derived rule). -/
def Obligations.StoreToTextIsFetchedNext : Prop :=
  ∀ (s : State) (r : Reg) (j : Instr), Memory.wf s.mem = true → s.phase = .p4 →
    s.ir = some (.stAbst r) ∨ s.ir = some (.stRelt r) → s.mar = s.pc → decode (s.reg r) = .instr j →
    ∃ t, stepTimes 3 s = .next t ∧ t.ir = some j ∧ t.phase = .p2 ∧ t.mar = s.pc ∧ t.pc = s.pc + 1#8

/-- Canonical memories that read the same are equal: the model's form of memory hides nothing (log 17). -/
def Obligations.EqualReadsEqualMemory : Prop :=
  ∀ m m' : Memory, Memory.wf m = true → Memory.wf m' = true →
    (∀ (g : Segment) (a : Byte), Memory.read m (physical g a) = Memory.read m' (physical g a)) → m = m'

/-- A run from p0 that ends at a Halt ends in the first execute phase of a HLT, so the phase after it is p3; one that ends
at InvalidInstruction ends at a p1 (`00_scope.md` R13; decisions D4, D5, D6, log 8, log 9). -/
def Obligations.RunEndsAtHaltOrIllegalFetch : Prop :=
  ∀ (n : Nat) (s t : State), s.phase = .p0 →
    (runToEnd n s = .halted t → t.phase = .p3 ∧ t.ir = some .hlt) ∧
    (∀ b, runToEnd n s = .invalid t b → b ∈ illegalOpcodes ∧ (t.phase = .p1 ∨ t.phase = .p2))
end

