-- ==== Sys2Proof/Laws/State.lean ====
section
/-! SUPPORT. One lemma per field per update of State, true by rfl, so that no later proof unfolds a record update. -/

namespace Sys2Proof.Machine

@[simp] theorem State.advance_acc (s : State) : (s.advance).acc = s.acc := rfl
@[simp] theorem State.advance_ix (s : State) : (s.advance).ix = s.ix := rfl
@[simp] theorem State.advance_pc (s : State) : (s.advance).pc = s.pc := rfl
@[simp] theorem State.advance_mar (s : State) : (s.advance).mar = s.mar := rfl
@[simp] theorem State.advance_ir (s : State) : (s.advance).ir = s.ir := rfl
@[simp] theorem State.advance_flags (s : State) : (s.advance).flags = s.flags := rfl
@[simp] theorem State.advance_phase (s : State) : (s.advance).phase = nextPhase s.phase := rfl
@[simp] theorem State.advance_mem (s : State) : (s.advance).mem = s.mem := rfl
@[simp] theorem State.advance_obuf (s : State) : (s.advance).obuf = s.obuf := rfl
@[simp] theorem State.advance_ibuf (s : State) : (s.advance).ibuf = s.ibuf := rfl

@[simp] theorem State.fetchAddress_acc (s : State) : (s.fetchAddress).acc = s.acc := rfl
@[simp] theorem State.fetchAddress_ix (s : State) : (s.fetchAddress).ix = s.ix := rfl
@[simp] theorem State.fetchAddress_pc (s : State) : (s.fetchAddress).pc = s.pc + 1#8 := rfl
@[simp] theorem State.fetchAddress_mar (s : State) : (s.fetchAddress).mar = s.pc := rfl
@[simp] theorem State.fetchAddress_ir (s : State) : (s.fetchAddress).ir = s.ir := rfl
@[simp] theorem State.fetchAddress_flags (s : State) : (s.fetchAddress).flags = s.flags := rfl
@[simp] theorem State.fetchAddress_phase (s : State) : (s.fetchAddress).phase = s.phase := rfl
@[simp] theorem State.fetchAddress_mem (s : State) : (s.fetchAddress).mem = s.mem := rfl
@[simp] theorem State.fetchAddress_obuf (s : State) : (s.fetchAddress).obuf = s.obuf := rfl
@[simp] theorem State.fetchAddress_ibuf (s : State) : (s.fetchAddress).ibuf = s.ibuf := rfl

@[simp] theorem State.storeByte_acc (s : State) (g : Segment) (a v : Byte) : (s.storeByte g a v).acc = s.acc := rfl
@[simp] theorem State.storeByte_ix (s : State) (g : Segment) (a v : Byte) : (s.storeByte g a v).ix = s.ix := rfl
@[simp] theorem State.storeByte_pc (s : State) (g : Segment) (a v : Byte) : (s.storeByte g a v).pc = s.pc := rfl
@[simp] theorem State.storeByte_mar (s : State) (g : Segment) (a v : Byte) : (s.storeByte g a v).mar = s.mar := rfl
@[simp] theorem State.storeByte_ir (s : State) (g : Segment) (a v : Byte) : (s.storeByte g a v).ir = s.ir := rfl
@[simp] theorem State.storeByte_flags (s : State) (g : Segment) (a v : Byte) : (s.storeByte g a v).flags = s.flags := rfl
@[simp] theorem State.storeByte_phase (s : State) (g : Segment) (a v : Byte) : (s.storeByte g a v).phase = s.phase := rfl
@[simp] theorem State.storeByte_mem (s : State) (g : Segment) (a v : Byte) : (s.storeByte g a v).mem = Memory.write s.mem (physical g a) v := rfl
@[simp] theorem State.storeByte_obuf (s : State) (g : Segment) (a v : Byte) : (s.storeByte g a v).obuf = s.obuf := rfl
@[simp] theorem State.storeByte_ibuf (s : State) (g : Segment) (a v : Byte) : (s.storeByte g a v).ibuf = s.ibuf := rfl

@[simp] theorem resolveAbsolute_acc (s : State) : (resolveAbsolute s).acc = s.acc := rfl
@[simp] theorem resolveAbsolute_ix (s : State) : (resolveAbsolute s).ix = s.ix := rfl
@[simp] theorem resolveAbsolute_pc (s : State) : (resolveAbsolute s).pc = s.pc := rfl
@[simp] theorem resolveAbsolute_mar (s : State) : (resolveAbsolute s).mar = s.byteAt .text s.mar := rfl
@[simp] theorem resolveAbsolute_ir (s : State) : (resolveAbsolute s).ir = s.ir := rfl
@[simp] theorem resolveAbsolute_flags (s : State) : (resolveAbsolute s).flags = s.flags := rfl
@[simp] theorem resolveAbsolute_phase (s : State) : (resolveAbsolute s).phase = s.phase := rfl
@[simp] theorem resolveAbsolute_mem (s : State) : (resolveAbsolute s).mem = s.mem := rfl
@[simp] theorem resolveAbsolute_obuf (s : State) : (resolveAbsolute s).obuf = s.obuf := rfl
@[simp] theorem resolveAbsolute_ibuf (s : State) : (resolveAbsolute s).ibuf = s.ibuf := rfl

@[simp] theorem resolveRelative_acc (s : State) : (resolveRelative s).acc = s.acc := rfl
@[simp] theorem resolveRelative_ix (s : State) : (resolveRelative s).ix = s.ix := rfl
@[simp] theorem resolveRelative_pc (s : State) : (resolveRelative s).pc = s.pc := rfl
@[simp] theorem resolveRelative_mar (s : State) : (resolveRelative s).mar = s.ix + s.byteAt .text s.mar := rfl
@[simp] theorem resolveRelative_ir (s : State) : (resolveRelative s).ir = s.ir := rfl
@[simp] theorem resolveRelative_flags (s : State) : (resolveRelative s).flags = s.flags := rfl
@[simp] theorem resolveRelative_phase (s : State) : (resolveRelative s).phase = s.phase := rfl
@[simp] theorem resolveRelative_mem (s : State) : (resolveRelative s).mem = s.mem := rfl
@[simp] theorem resolveRelative_obuf (s : State) : (resolveRelative s).obuf = s.obuf := rfl
@[simp] theorem resolveRelative_ibuf (s : State) : (resolveRelative s).ibuf = s.ibuf := rfl

@[simp] theorem settleShiftFlags_acc (r : Reg) (s : State) : (settleShiftFlags r s).acc = s.acc := rfl
@[simp] theorem settleShiftFlags_ix (r : Reg) (s : State) : (settleShiftFlags r s).ix = s.ix := rfl
@[simp] theorem settleShiftFlags_pc (r : Reg) (s : State) : (settleShiftFlags r s).pc = s.pc := rfl
@[simp] theorem settleShiftFlags_mar (r : Reg) (s : State) : (settleShiftFlags r s).mar = s.mar := rfl
@[simp] theorem settleShiftFlags_ir (r : Reg) (s : State) : (settleShiftFlags r s).ir = s.ir := rfl
@[simp] theorem settleShiftFlags_flags (r : Reg) (s : State) : (settleShiftFlags r s).flags = shiftFlags (s.reg r) s.flags := rfl
@[simp] theorem settleShiftFlags_phase (r : Reg) (s : State) : (settleShiftFlags r s).phase = s.phase := rfl
@[simp] theorem settleShiftFlags_mem (r : Reg) (s : State) : (settleShiftFlags r s).mem = s.mem := rfl
@[simp] theorem settleShiftFlags_obuf (r : Reg) (s : State) : (settleShiftFlags r s).obuf = s.obuf := rfl
@[simp] theorem settleShiftFlags_ibuf (r : Reg) (s : State) : (settleShiftFlags r s).ibuf = s.ibuf := rfl

@[simp] theorem State.movedPast_acc (s : State) (i : Instr) (a : Byte) : (s.movedPast i a).acc = s.acc := rfl
@[simp] theorem State.movedPast_ix (s : State) (i : Instr) (a : Byte) : (s.movedPast i a).ix = s.ix := rfl
@[simp] theorem State.movedPast_pc (s : State) (i : Instr) (a : Byte) : (s.movedPast i a).pc = s.pc + BitVec.ofNat 8 i.length := rfl
@[simp] theorem State.movedPast_mar (s : State) (i : Instr) (a : Byte) : (s.movedPast i a).mar = a := rfl
@[simp] theorem State.movedPast_ir (s : State) (i : Instr) (a : Byte) : (s.movedPast i a).ir = some i := rfl
@[simp] theorem State.movedPast_flags (s : State) (i : Instr) (a : Byte) : (s.movedPast i a).flags = s.flags := rfl
@[simp] theorem State.movedPast_phase (s : State) (i : Instr) (a : Byte) : (s.movedPast i a).phase = s.phase := rfl
@[simp] theorem State.movedPast_mem (s : State) (i : Instr) (a : Byte) : (s.movedPast i a).mem = s.mem := rfl
@[simp] theorem State.movedPast_obuf (s : State) (i : Instr) (a : Byte) : (s.movedPast i a).obuf = s.obuf := rfl
@[simp] theorem State.movedPast_ibuf (s : State) (i : Instr) (a : Byte) : (s.movedPast i a).ibuf = s.ibuf := rfl

@[simp] theorem State.setReg_pc (s : State) (r : Reg) (v : Byte) : (s.setReg r v).pc = s.pc := by cases r <;> rfl
@[simp] theorem State.setReg_mar (s : State) (r : Reg) (v : Byte) : (s.setReg r v).mar = s.mar := by cases r <;> rfl
@[simp] theorem State.setReg_ir (s : State) (r : Reg) (v : Byte) : (s.setReg r v).ir = s.ir := by cases r <;> rfl
@[simp] theorem State.setReg_flags (s : State) (r : Reg) (v : Byte) : (s.setReg r v).flags = s.flags := by cases r <;> rfl
@[simp] theorem State.setReg_phase (s : State) (r : Reg) (v : Byte) : (s.setReg r v).phase = s.phase := by cases r <;> rfl
@[simp] theorem State.setReg_mem (s : State) (r : Reg) (v : Byte) : (s.setReg r v).mem = s.mem := by cases r <;> rfl
@[simp] theorem State.setReg_obuf (s : State) (r : Reg) (v : Byte) : (s.setReg r v).obuf = s.obuf := by cases r <;> rfl
@[simp] theorem State.setReg_ibuf (s : State) (r : Reg) (v : Byte) : (s.setReg r v).ibuf = s.ibuf := by cases r <;> rfl
@[simp] theorem State.setReg_acc_eq (s : State) (v : Byte) : s.setReg .acc v = { s with acc := v } := rfl
@[simp] theorem State.setReg_ix_eq (s : State) (v : Byte) : s.setReg .ix v = { s with ix := v } := rfl
@[simp] theorem State.reg_acc_eq (s : State) : s.reg .acc = s.acc := rfl
@[simp] theorem State.reg_ix_eq (s : State) : s.reg .ix = s.ix := rfl

/-- Writing a register and reading it back. -/
theorem State.reg_setReg_same (s : State) (r : Reg) (v : Byte) : (s.setReg r v).reg r = v := by cases r <;> rfl

/-- Writing one register leaves the other. -/
theorem State.reg_setReg_other (s : State) {r q : Reg} (v : Byte) (h : q ≠ r) : (s.setReg r v).reg q = s.reg q := by
  cases r <;> cases q <;> first | rfl | exact absurd rfl h

@[simp] theorem State.advance_reg (s : State) (r : Reg) : s.advance.reg r = s.reg r := by cases r <;> rfl
@[simp] theorem State.fetchAddress_reg (s : State) (r : Reg) : s.fetchAddress.reg r = s.reg r := by cases r <;> rfl
@[simp] theorem State.storeByte_reg (s : State) (g : Segment) (a v : Byte) (r : Reg) :
    (s.storeByte g a v).reg r = s.reg r := by cases r <;> rfl
@[simp] theorem State.advance_byteAt (s : State) (g : Segment) (a : Byte) : s.advance.byteAt g a = s.byteAt g a := rfl
@[simp] theorem State.fetchAddress_byteAt (s : State) (g : Segment) (a : Byte) :
    s.fetchAddress.byteAt g a = s.byteAt g a := rfl
@[simp] theorem State.setReg_byteAt (s : State) (r : Reg) (v : Byte) (g : Segment) (a : Byte) :
    (s.setReg r v).byteAt g a = s.byteAt g a := by cases r <;> rfl
@[simp] theorem resolveAbsolute_byteAt (s : State) (g : Segment) (a : Byte) :
    (resolveAbsolute s).byteAt g a = s.byteAt g a := rfl
@[simp] theorem resolveRelative_byteAt (s : State) (g : Segment) (a : Byte) :
    (resolveRelative s).byteAt g a = s.byteAt g a := rfl

@[simp] theorem takeShifted_pc (r : Reg) (x : Byte × Bool) (s : State) : (takeShifted r x s).pc = s.pc := by cases r <;> rfl
@[simp] theorem takeShifted_mar (r : Reg) (x : Byte × Bool) (s : State) : (takeShifted r x s).mar = s.mar := by cases r <;> rfl
@[simp] theorem takeShifted_ir (r : Reg) (x : Byte × Bool) (s : State) : (takeShifted r x s).ir = s.ir := by cases r <;> rfl
@[simp] theorem takeShifted_flags (r : Reg) (x : Byte × Bool) (s : State) : (takeShifted r x s).flags = { s.flags with cf := x.2 } := rfl
@[simp] theorem takeShifted_phase (r : Reg) (x : Byte × Bool) (s : State) : (takeShifted r x s).phase = s.phase := by cases r <;> rfl
@[simp] theorem takeShifted_mem (r : Reg) (x : Byte × Bool) (s : State) : (takeShifted r x s).mem = s.mem := by cases r <;> rfl
@[simp] theorem takeShifted_obuf (r : Reg) (x : Byte × Bool) (s : State) : (takeShifted r x s).obuf = s.obuf := by cases r <;> rfl
@[simp] theorem takeShifted_ibuf (r : Reg) (x : Byte × Bool) (s : State) : (takeShifted r x s).ibuf = s.ibuf := by cases r <;> rfl

@[simp] theorem computeInto_pc (p : Params) (op : BinOp) (r : Reg) (x : Byte) (s : State) : (computeInto p op r x s).pc = s.pc := by cases r <;> rfl
@[simp] theorem computeInto_mar (p : Params) (op : BinOp) (r : Reg) (x : Byte) (s : State) : (computeInto p op r x s).mar = s.mar := by cases r <;> rfl
@[simp] theorem computeInto_ir (p : Params) (op : BinOp) (r : Reg) (x : Byte) (s : State) : (computeInto p op r x s).ir = s.ir := by cases r <;> rfl
@[simp] theorem computeInto_flags (p : Params) (op : BinOp) (r : Reg) (x : Byte) (s : State) : (computeInto p op r x s).flags = (compute p.aluWiden op (s.reg r) x s.flags).2 := rfl
@[simp] theorem computeInto_phase (p : Params) (op : BinOp) (r : Reg) (x : Byte) (s : State) : (computeInto p op r x s).phase = s.phase := by cases r <;> rfl
@[simp] theorem computeInto_mem (p : Params) (op : BinOp) (r : Reg) (x : Byte) (s : State) : (computeInto p op r x s).mem = s.mem := by cases r <;> rfl
@[simp] theorem computeInto_obuf (p : Params) (op : BinOp) (r : Reg) (x : Byte) (s : State) : (computeInto p op r x s).obuf = s.obuf := by cases r <;> rfl
@[simp] theorem computeInto_ibuf (p : Params) (op : BinOp) (r : Reg) (x : Byte) (s : State) : (computeInto p op r x s).ibuf = s.ibuf := by cases r <;> rfl

@[simp] theorem State.withResult_pc (s : State) (r : Reg) (x : Byte × Flags) : (s.withResult r x).pc = s.pc := by cases r <;> rfl
@[simp] theorem State.withResult_mar (s : State) (r : Reg) (x : Byte × Flags) : (s.withResult r x).mar = s.mar := by cases r <;> rfl
@[simp] theorem State.withResult_ir (s : State) (r : Reg) (x : Byte × Flags) : (s.withResult r x).ir = s.ir := by cases r <;> rfl
@[simp] theorem State.withResult_flags (s : State) (r : Reg) (x : Byte × Flags) : (s.withResult r x).flags = x.2 := rfl
@[simp] theorem State.withResult_phase (s : State) (r : Reg) (x : Byte × Flags) : (s.withResult r x).phase = s.phase := by cases r <;> rfl
@[simp] theorem State.withResult_mem (s : State) (r : Reg) (x : Byte × Flags) : (s.withResult r x).mem = s.mem := by cases r <;> rfl
@[simp] theorem State.withResult_obuf (s : State) (r : Reg) (x : Byte × Flags) : (s.withResult r x).obuf = s.obuf := by cases r <;> rfl
@[simp] theorem State.withResult_ibuf (s : State) (r : Reg) (x : Byte × Flags) : (s.withResult r x).ibuf = s.ibuf := by cases r <;> rfl

/-- The register a shift or rotate writes. -/
theorem takeShifted_reg_same (r : Reg) (x : Byte × Bool) (s : State) : (takeShifted r x s).reg r = x.1 := by
  cases r <;> rfl

/-- The register the compute phase writes. -/
theorem computeInto_reg_same (p : Params) (op : BinOp) (r : Reg) (x : Byte) (s : State) :
    (computeInto p op r x s).reg r = (compute p.aluWiden op (s.reg r) x s.flags).1 := by
  cases r <;> rfl

/-- The register the compute phase leaves. -/
theorem computeInto_reg_other (p : Params) (op : BinOp) {r q : Reg} (x : Byte) (s : State) (h : q ≠ r) :
    (computeInto p op r x s).reg q = s.reg q := by
  cases r <;> cases q <;> first | rfl | exact absurd rfl h

end Sys2Proof.Machine
end

