-- ==== Sys2Proof/Laws/Memory.lean ====
section
/-! SUPPORT. The laws of memory: a read after a write, and that every memory operation keeps the canonical form. -/

namespace Sys2Proof.Machine

theorem Memory.read_cons (a : Nat) (v : Byte) (m : Memory) (pa : Nat) :
    Memory.read ((a, v) :: m) pa = if a = pa then v else Memory.read m pa := rfl

/-- Reading the address just written gives the value written. -/
theorem Memory.read_write_same (m : Memory) (pa : Nat) (v : Byte) {lo : Nat} (h : Memory.wfFrom lo m = true) :
    Memory.read (Memory.write m pa v) pa = v := by
  induction m generalizing lo with
  | nil => unfold Memory.write; split <;> simp_all [Memory.read]
  | cons c m ih =>
    obtain ⟨a, w⟩ := c
    simp only [Memory.wfFrom, Bool.and_eq_true, decide_eq_true_eq] at h
    have below : ∀ (m : Memory) (k : Nat), Memory.wfFrom k m = true → ∀ q, q < k → Memory.read m q = Memory.unlisted := by
      intro m
      induction m with
      | nil => intros; rfl
      | cons d m ihm =>
        intro k hk q hq
        obtain ⟨b, u⟩ := d
        simp only [Memory.wfFrom, Bool.and_eq_true, decide_eq_true_eq] at hk
        rw [Memory.read_cons, if_neg (by omega)]
        exact ihm (b + 1) hk.2 q (by omega)
    unfold Memory.write
    split
    · split
      · next hlt hv =>
        rw [Memory.read_cons, if_neg (by omega), hv]
        exact below m (a + 1) h.2 pa (by omega)
      · simp [Memory.read]
    · split
      · next hge heq =>
        split
        · next hv => rw [hv]; exact below m (a + 1) h.2 pa (by omega)
        · simp [Memory.read]
      · next hne => rw [Memory.read_cons, if_neg (fun e => hne e.symm)]; exact ih h.2

/-- Reading any other address gives what it gave before the write. -/
theorem Memory.read_write_other (m : Memory) {pa q : Nat} (v : Byte) (h : q ≠ pa) :
    Memory.read (Memory.write m pa v) q = Memory.read m q := by
  induction m with
  | nil =>
    unfold Memory.write
    split
    · rfl
    · rw [Memory.read_cons, if_neg (fun e => h e.symm)]
  | cons c m ih =>
    obtain ⟨a, w⟩ := c
    unfold Memory.write
    split
    · split
      · rfl
      · rw [Memory.read_cons, if_neg (fun e => h e.symm)]
    · split
      · next heq =>
        split
        · rw [Memory.read_cons, if_neg (by omega)]
        · rw [Memory.read_cons, Memory.read_cons, if_neg (fun e => h e.symm), if_neg (by omega)]
      · rw [Memory.read_cons, Memory.read_cons, ih]

/-- A write at an address that exists keeps the canonical form. -/
theorem Memory.wfFrom_write (m : Memory) {lo pa : Nat} (v : Byte) (h : Memory.wfFrom lo m = true) (hlo : lo ≤ pa)
    (hpa : pa < Memory.size) : Memory.wfFrom lo (Memory.write m pa v) = true := by
  induction m generalizing lo with
  | nil =>
    unfold Memory.write
    split
    · rfl
    · simp_all [Memory.wfFrom]
  | cons c m ih =>
    obtain ⟨a, w⟩ := c
    have whole := h
    simp only [Memory.wfFrom, Bool.and_eq_true, decide_eq_true_eq, bne_iff_ne] at h
    obtain ⟨⟨⟨h1, h2⟩, h3⟩, h4⟩ := h
    unfold Memory.write
    split
    · split
      · exact whole
      · next hlt hv =>
        simp only [Memory.wfFrom, Bool.and_eq_true, decide_eq_true_eq, bne_iff_ne]
        exact ⟨⟨⟨hlo, hpa⟩, hv⟩, ⟨⟨⟨hlt, h2⟩, h3⟩, h4⟩⟩
    · split
      · next heq =>
        split
        · have weaken : ∀ (m : Memory) (k : Nat), lo ≤ k → Memory.wfFrom k m = true → Memory.wfFrom lo m = true := by
            intro m k hk hm
            cases m with
            | nil => rfl
            | cons d m =>
              obtain ⟨b, u⟩ := d
              simp only [Memory.wfFrom, Bool.and_eq_true, decide_eq_true_eq, bne_iff_ne] at hm ⊢
              exact ⟨⟨⟨by omega, hm.1.1.2⟩, hm.1.2⟩, hm.2⟩
          exact weaken m (a + 1) (by omega) h4
        · next hv =>
          simp only [Memory.wfFrom, Bool.and_eq_true, decide_eq_true_eq, bne_iff_ne]
          exact ⟨⟨⟨hlo, hpa⟩, hv⟩, heq ▸ h4⟩
      · simp only [Memory.wfFrom, Bool.and_eq_true, decide_eq_true_eq, bne_iff_ne]
        exact ⟨⟨⟨h1, h2⟩, h3⟩, ih h4 (by omega)⟩

/-- A write keeps the canonical form. -/
theorem Memory.wf_write {m : Memory} {pa : Nat} (v : Byte) (h : Memory.wf m = true) (hpa : pa < Memory.size) :
    Memory.wf (Memory.write m pa v) = true := Memory.wfFrom_write m v h (Nat.zero_le _) hpa

/-- Every address of a segment exists. -/
theorem physical_lt (g : Segment) (a : Byte) : physical g a < Memory.size := by
  have := a.isLt
  cases g <;> simp only [physical, segmentBase, u8, Memory.size] <;> omega

/-- Different places have different physical addresses. -/
theorem physical_injective {g g' : Segment} {a a' : Byte} (h : physical g a = physical g' a') : g = g' ∧ a = a' := by
  have ha := a.isLt
  have ha' := a'.isLt
  cases g <;> cases g' <;> simp only [physical, segmentBase, u8] at h
  · exact ⟨rfl, BitVec.eq_of_toNat_eq (by omega)⟩
  · omega
  · omega
  · exact ⟨rfl, BitVec.eq_of_toNat_eq (by omega)⟩

/-- A store keeps the canonical form. -/
theorem State.storeByte_wf {s : State} (g : Segment) (a v : Byte) (h : Memory.wf s.mem = true) :
    Memory.wf (s.storeByte g a v).mem = true := Memory.wf_write v h (physical_lt g a)

/-- The byte stored is read back at its place. -/
theorem State.byteAt_storeByte_same {s : State} (g : Segment) (a v : Byte) (h : Memory.wf s.mem = true) :
    (s.storeByte g a v).byteAt g a = v := Memory.read_write_same s.mem _ v h

/-- Every other place reads as before the store. -/
theorem State.byteAt_storeByte_other (s : State) {g g' : Segment} {a a' : Byte} (v : Byte)
    (h : ¬(g' = g ∧ a' = a)) : (s.storeByte g a v).byteAt g' a' = s.byteAt g' a' :=
  Memory.read_write_other s.mem v fun e => h (physical_injective e)

/-- Placing an image that ends inside memory keeps the canonical form. -/
theorem placeImage_wf (image : List Byte) {pa : Nat} {m : Memory} (h : Memory.wf m = true)
    (fits : pa + image.length ≤ Memory.size) : Memory.wf (placeImage pa image m) = true := by
  induction image generalizing pa m with
  | nil => exact h
  | cons b image ih =>
    simp only [List.length_cons] at fits
    exact ih (Memory.wf_write b h (by omega)) (by omega)

/-- The reset state's memory is in canonical form. -/
theorem reset_mem_wf : Memory.wf State.reset.mem = true := rfl

end Sys2Proof.Machine
end

