-- ==== Sys2Proof/Laws/Ops.lean ====
section
/-! SUPPORT. One lemma per shared operation that says everything it can do, and the inversion of the step: proofs cite
these and do not unfold the operations. -/

namespace Sys2Proof.Machine

/-- Everything p0 can do. -/
theorem phase0_next {s t : State} (h : phase0 s = .next t) : t = s.fetchAddress.advance := by
  cases h; rfl

/-- Everything p1 can do when it goes on. -/
theorem phase1With_next {p : Params} {s t : State} (h : phase1With p s = .next t) :
    ∃ i, decodeWith p.bcondMap (s.byteAt .text s.mar) = .instr i ∧ t = { s with ir := some i }.advance := by
  unfold phase1With at h
  split at h
  · next i hd => exact ⟨i, hd, by cases h; rfl⟩
  · cases h

/-- Everything p1 can do when it raises. -/
theorem phase1With_fault {p : Params} {s : State} {f : Fault} (h : phase1With p s = .fault f) :
    ∃ b, decodeWith p.bcondMap (s.byteAt .text s.mar) = .fail b ∧ f = .invalidInstruction b := by
  unfold phase1With at h
  split at h
  · cases h
  · next b hd => exact ⟨b, hd, by cases h; rfl⟩

/-- p1 never refuses. -/
theorem phase1With_not_refused {p : Params} {s : State} {r : Refusal} : phase1With p s ≠ .refused r := by
  unfold phase1With
  split <;> simp [raiseInvalidInstruction]

theorem performWith_p0 {p : Params} {e : PhaseEffects} {s : State} (h : s.phase = .p0) : performWith p e s = phase0 s := by
  unfold performWith; rw [h]

theorem performWith_p1 {p : Params} {e : PhaseEffects} {s : State} (h : s.phase = .p1) :
    performWith p e s = phase1With p s := by
  unfold performWith; rw [h]

theorem performWith_p2 {p : Params} {e : PhaseEffects} {s : State} (h : s.phase = .p2) :
    performWith p e s = .next (e.p2 s).advance := by
  unfold performWith; rw [h]

theorem performWith_p3 {p : Params} {e : PhaseEffects} {s : State} (h : s.phase = .p3) :
    performWith p e s = .next (e.p3 s).advance := by
  unfold performWith; rw [h]

theorem performWith_p4 {p : Params} {e : PhaseEffects} {s : State} (h : s.phase = .p4) :
    performWith p e s = .next (e.p4 s).advance := by
  unfold performWith; rw [h]

/-- The meaning of every instruction is its row of the table of `41_phase_engine.md` R139. -/
theorem exec_eq_variantEffects (i : Instr) (s : State) :
    exec i s = performWith Params.standard (variantEffects Params.standard i.variant) s := by
  cases i <;> rfl

/-- The fixed-name instruction meanings are the parametric machine's at the standard settings. -/
theorem execWith_standard (i : Instr) (s : State) : execWith Params.standard i s = exec i s :=
  (exec_eq_variantEffects i s).symm

/-- The fixed-name step is the parametric machine's at the standard settings. -/
theorem stepWith_standard (s : State) : stepWith Params.standard s = step s := by
  unfold stepWith step phase1
  cases s.phase <;> cases s.ir <;> simp only [execWith_standard]

/-- The decoder answers some instruction or the byte itself. -/
theorem decodeWith_fail {m : Nibble → Cond} {b c : Byte} (h : decodeWith m b = .fail c) : c = b := by
  unfold decodeWith at h
  split at h
  · cases h
  · cases h; rfl

/-- A phase is one of five. -/
theorem phase_cases (p : Phase) : p = .p0 ∨ p = .p1 ∨ p = .p2 ∨ p = .p3 ∨ p = .p4 := by
  cases p <;> simp

/-- Everything a step can do when it goes on: p0, p1, or an execute phase of the instruction in IR. -/
theorem step_next {s t : State} (h : step s = .next t) :
    (s.phase = .p0 ∧ t = s.fetchAddress.advance) ∨
    (s.phase = .p1 ∧ ∃ i, decode (s.byteAt .text s.mar) = .instr i ∧ t = { s with ir := some i }.advance) ∨
    (∃ i, s.ir = some i ∧
      (s.phase = .p2 ∧ t = ((variantEffects Params.standard i.variant).p2 s).advance ∨
        s.phase = .p3 ∧ t = ((variantEffects Params.standard i.variant).p3 s).advance ∨
        s.phase = .p4 ∧ t = ((variantEffects Params.standard i.variant).p4 s).advance)) := by
  rcases phase_cases s.phase with hp | hp | hp | hp | hp <;> simp only [step, hp] at h
  · exact .inl ⟨hp, phase0_next h⟩
  · exact .inr (.inl ⟨hp, phase1With_next h⟩)
  all_goals
    cases hi : s.ir with
    | none => rw [hi] at h; cases h
    | some i =>
      rw [hi] at h
      simp only [exec_eq_variantEffects] at h
      refine .inr (.inr ⟨i, rfl, ?_⟩)
      first
        | rw [performWith_p2 hp] at h; cases h; exact .inl ⟨hp, rfl⟩
        | rw [performWith_p3 hp] at h; cases h; exact .inr (.inl ⟨hp, rfl⟩)
        | rw [performWith_p4 hp] at h; cases h; exact .inr (.inr ⟨hp, rfl⟩)

/-- A host move that goes on changes one buffer only. -/
theorem applyMove_next {m : HostMove} {s t : State} (h : applyMove m s = .next t) :
    (∃ v, m = .supplyInput v ∧ t = { s with ibuf := { value := v, ready := true } }) ∨
    (m = .clearOutputReady ∧ t = { s with obuf := { s.obuf with ready := false } }) := by
  cases m with
  | supplyInput v => cases h; exact .inl ⟨v, rfl, rfl⟩
  | clearOutputReady => cases h; exact .inr ⟨rfl, rfl⟩

/-- Everything construction can do; which of two too long images it names first is the model's choice (log 25). -/
theorem construct_cases (program data : List Byte) :
    (imageFits program = true ∧ imageFits data = true ∧ construct program data = .state (State.loaded program data)) ∨
    (imageFits program = false ∧ construct program data = .rejected .programTooLong) ∨
    (imageFits program = true ∧ imageFits data = false ∧ construct program data = .rejected .dataTooLong) := by
  cases hp : imageFits program <;> cases hd : imageFits data <;> simp [construct, hp, hd]

/-- The overflow rule never holds of a zero result, base or operand (`40_alu.md` R109). -/
theorem overflowFlag_zero_result (a b : Byte) : overflowFlag a b 0#8 = false := by
  simp [overflowFlag, s8]

end Sys2Proof.Machine
end

