-- ==== Sys2Proof/Laws/PerInstr.lean ====
section
/-! SUPPORT. The family `OpcodeLength`: the length formula of `30_encoding.md` R73, read from the canonical opcode byte
alone, is the instruction's length. One lemma per constructor of `Instr`. -/

namespace Sys2Proof.Laws.OpcodeLength

/-- The opcode byte tells the instruction's length (`30_encoding.md` R73). -/
def Statement (i : Instr) : Prop := lengthOfOpcode (encodeOpcode i) = i.length

theorem nop : Statement .nop := rfl
theorem hlt : Statement .hlt := rfl
theorem out : Statement .out := rfl
theorem inp : Statement .inp := rfl
theorem rcf : Statement .rcf := rfl
theorem scf : Statement .scf := rfl
theorem ba : Statement .ba := rfl
theorem bnz : Statement .bnz := rfl
theorem bzp : Statement .bzp := rfl
theorem bp : Statement .bp := rfl
theorem bni : Statement .bni := rfl
theorem bnc : Statement .bnc := rfl
theorem bge : Statement .bge := rfl
theorem bgt : Statement .bgt := rfl
theorem bvf : Statement .bvf := rfl
theorem bz : Statement .bz := rfl
theorem bn : Statement .bn := rfl
theorem bzn : Statement .bzn := rfl
theorem bno : Statement .bno := rfl
theorem bc : Statement .bc := rfl
theorem blt : Statement .blt := rfl
theorem ble : Statement .ble := rfl
theorem sra (r : Reg) : Statement (.sra r) := by cases r <;> rfl
theorem sla (r : Reg) : Statement (.sla r) := by cases r <;> rfl
theorem srl (r : Reg) : Statement (.srl r) := by cases r <;> rfl
theorem sll (r : Reg) : Statement (.sll r) := by cases r <;> rfl
theorem rra (r : Reg) : Statement (.rra r) := by cases r <;> rfl
theorem rla (r : Reg) : Statement (.rla r) := by cases r <;> rfl
theorem rrl (r : Reg) : Statement (.rrl r) := by cases r <;> rfl
theorem rll (r : Reg) : Statement (.rll r) := by cases r <;> rfl
theorem ldAcc (r : Reg) : Statement (.ldAcc r) := by cases r <;> rfl
theorem ldIx (r : Reg) : Statement (.ldIx r) := by cases r <;> rfl
theorem ldImm (r : Reg) : Statement (.ldImm r) := by cases r <;> rfl
theorem ldAbst (r : Reg) : Statement (.ldAbst r) := by cases r <;> rfl
theorem ldAbsd (r : Reg) : Statement (.ldAbsd r) := by cases r <;> rfl
theorem ldRelt (r : Reg) : Statement (.ldRelt r) := by cases r <;> rfl
theorem ldReld (r : Reg) : Statement (.ldReld r) := by cases r <;> rfl
theorem stAbst (r : Reg) : Statement (.stAbst r) := by cases r <;> rfl
theorem stAbsd (r : Reg) : Statement (.stAbsd r) := by cases r <;> rfl
theorem stRelt (r : Reg) : Statement (.stRelt r) := by cases r <;> rfl
theorem stReld (r : Reg) : Statement (.stReld r) := by cases r <;> rfl
theorem sbcAcc (r : Reg) : Statement (.sbcAcc r) := by cases r <;> rfl
theorem sbcIx (r : Reg) : Statement (.sbcIx r) := by cases r <;> rfl
theorem sbcImm (r : Reg) : Statement (.sbcImm r) := by cases r <;> rfl
theorem sbcAbst (r : Reg) : Statement (.sbcAbst r) := by cases r <;> rfl
theorem sbcAbsd (r : Reg) : Statement (.sbcAbsd r) := by cases r <;> rfl
theorem sbcRelt (r : Reg) : Statement (.sbcRelt r) := by cases r <;> rfl
theorem sbcReld (r : Reg) : Statement (.sbcReld r) := by cases r <;> rfl
theorem adcAcc (r : Reg) : Statement (.adcAcc r) := by cases r <;> rfl
theorem adcIx (r : Reg) : Statement (.adcIx r) := by cases r <;> rfl
theorem adcImm (r : Reg) : Statement (.adcImm r) := by cases r <;> rfl
theorem adcAbst (r : Reg) : Statement (.adcAbst r) := by cases r <;> rfl
theorem adcAbsd (r : Reg) : Statement (.adcAbsd r) := by cases r <;> rfl
theorem adcRelt (r : Reg) : Statement (.adcRelt r) := by cases r <;> rfl
theorem adcReld (r : Reg) : Statement (.adcReld r) := by cases r <;> rfl
theorem subAcc (r : Reg) : Statement (.subAcc r) := by cases r <;> rfl
theorem subIx (r : Reg) : Statement (.subIx r) := by cases r <;> rfl
theorem subImm (r : Reg) : Statement (.subImm r) := by cases r <;> rfl
theorem subAbst (r : Reg) : Statement (.subAbst r) := by cases r <;> rfl
theorem subAbsd (r : Reg) : Statement (.subAbsd r) := by cases r <;> rfl
theorem subRelt (r : Reg) : Statement (.subRelt r) := by cases r <;> rfl
theorem subReld (r : Reg) : Statement (.subReld r) := by cases r <;> rfl
theorem addAcc (r : Reg) : Statement (.addAcc r) := by cases r <;> rfl
theorem addIx (r : Reg) : Statement (.addIx r) := by cases r <;> rfl
theorem addImm (r : Reg) : Statement (.addImm r) := by cases r <;> rfl
theorem addAbst (r : Reg) : Statement (.addAbst r) := by cases r <;> rfl
theorem addAbsd (r : Reg) : Statement (.addAbsd r) := by cases r <;> rfl
theorem addRelt (r : Reg) : Statement (.addRelt r) := by cases r <;> rfl
theorem addReld (r : Reg) : Statement (.addReld r) := by cases r <;> rfl
theorem eorAcc (r : Reg) : Statement (.eorAcc r) := by cases r <;> rfl
theorem eorIx (r : Reg) : Statement (.eorIx r) := by cases r <;> rfl
theorem eorImm (r : Reg) : Statement (.eorImm r) := by cases r <;> rfl
theorem eorAbst (r : Reg) : Statement (.eorAbst r) := by cases r <;> rfl
theorem eorAbsd (r : Reg) : Statement (.eorAbsd r) := by cases r <;> rfl
theorem eorRelt (r : Reg) : Statement (.eorRelt r) := by cases r <;> rfl
theorem eorReld (r : Reg) : Statement (.eorReld r) := by cases r <;> rfl
theorem orAcc (r : Reg) : Statement (.orAcc r) := by cases r <;> rfl
theorem orIx (r : Reg) : Statement (.orIx r) := by cases r <;> rfl
theorem orImm (r : Reg) : Statement (.orImm r) := by cases r <;> rfl
theorem orAbst (r : Reg) : Statement (.orAbst r) := by cases r <;> rfl
theorem orAbsd (r : Reg) : Statement (.orAbsd r) := by cases r <;> rfl
theorem orRelt (r : Reg) : Statement (.orRelt r) := by cases r <;> rfl
theorem orReld (r : Reg) : Statement (.orReld r) := by cases r <;> rfl
theorem andAcc (r : Reg) : Statement (.andAcc r) := by cases r <;> rfl
theorem andIx (r : Reg) : Statement (.andIx r) := by cases r <;> rfl
theorem andImm (r : Reg) : Statement (.andImm r) := by cases r <;> rfl
theorem andAbst (r : Reg) : Statement (.andAbst r) := by cases r <;> rfl
theorem andAbsd (r : Reg) : Statement (.andAbsd r) := by cases r <;> rfl
theorem andRelt (r : Reg) : Statement (.andRelt r) := by cases r <;> rfl
theorem andReld (r : Reg) : Statement (.andReld r) := by cases r <;> rfl
theorem cmpAcc (r : Reg) : Statement (.cmpAcc r) := by cases r <;> rfl
theorem cmpIx (r : Reg) : Statement (.cmpIx r) := by cases r <;> rfl
theorem cmpImm (r : Reg) : Statement (.cmpImm r) := by cases r <;> rfl
theorem cmpAbst (r : Reg) : Statement (.cmpAbst r) := by cases r <;> rfl
theorem cmpAbsd (r : Reg) : Statement (.cmpAbsd r) := by cases r <;> rfl
theorem cmpRelt (r : Reg) : Statement (.cmpRelt r) := by cases r <;> rfl
theorem cmpReld (r : Reg) : Statement (.cmpReld r) := by cases r <;> rfl

end Sys2Proof.Laws.OpcodeLength
end

