-- ==== Sys2Proof/Tests/Slice0.lean ====
section
/-! SUPPORT. Tests on fixed values, from the spec's own tables and vectors, and for every obligation with hypotheses a
concrete state and operands that meet them. -/

namespace Sys2Proof.Tests

open Sys2Proof Sys2Proof.Machine

/-! Helpers -/

/-- The machine just constructed from two images. -/
def start (text data : List Byte) : State := State.loaded text data

/-- A state with the instruction in IR and in the phase given. -/
def running (ph : Phase) (i : Instr) (s : State) : State := { s with phase := ph, ir := some i }

/-- The state after one step; the state itself where the step does not go on. -/
def after (s : State) : State :=
  match step s with
  | .next t => t
  | .fault _ => s
  | .refused _ => s

/-- Whether one step goes on. -/
def goesOn (s : State) : Bool :=
  match step s with
  | .next _ => true
  | .fault _ => false
  | .refused _ => false

theorem step_of_goesOn {s : State} (h : goesOn s = true) : step s = .next (after s) := by
  unfold goesOn at h
  unfold after
  cases hs : step s <;> simp [hs] at h ⊢

/-- The flags of a packed nibble, ZF = 1, NF = 2, VF = 4, CF = 8. -/
def flagsOf (n : Nibble) : Flags := { zf := n.getLsbD 0, nf := n.getLsbD 1, vf := n.getLsbD 2, cf := n.getLsbD 3 }

def decodesTo (x : Byte × Instr) : Bool := decide (decode x.1 = .instr x.2)

/-- One row of `95_test_vectors.md` section 2.2: base, operand, F in, result, F out, F out under unsigned widening. -/
def computes (op : BinOp) (x : Byte × Byte × Nibble × Byte × Nibble × Nibble) : Bool :=
  match x with
  | (b, o, f, res, g, h) =>
    decide (compute .signed op b o (flagsOf f) = (res, flagsOf g)) &&
      decide (compute .unsigned op b o (flagsOf f) = (res, flagsOf h))

/-- One column of `95_test_vectors.md` section 2.8: bit n of the mask says whether the branch is taken with F = n. -/
def takenOn (x : Cond × BitVec 16) : Bool :=
  (List.range 16).all fun n => condHolds x.1 (flagsOf (BitVec.ofNat 4 n)) true true == x.2.getLsbD n

/-! Well-formedness: one ill-formed term for each check -/

theorem test_line_without_operand_refused : CodeLine.wf ⟨.ldImm .acc, none⟩ = false := by decide
theorem test_line_with_extra_operand_refused : CodeLine.wf ⟨.nop, some 0x00#8⟩ = false := by decide
theorem test_constant_branch_map_refused : bcondInjective (fun _ => .positive) = false := by decide
theorem test_branch_map_off_fixture_refused : bcondFixture (fun _ => .always) = false := by decide
theorem test_bad_branch_map_not_legal : bcondLegal (fun _ => .positive) = false := by decide
theorem test_default_branch_map_legal : bcondLegal bcondDefault = true := by decide
theorem test_image_of_257_bytes_refused : imageFits (List.replicate 257 0x00#8) = false := by
  rw [imageFits, List.length_replicate]; decide
theorem test_image_of_256_bytes_fits : imageFits (List.replicate 256 0x00#8) = true := by
  rw [imageFits, List.length_replicate]; decide
theorem test_non_canonical_memory_refused :
    Memory.wf [(0, 0x00#8)] = false ∧ Memory.wf [(1, 0x01#8), (1, 0x02#8)] = false ∧ Memory.wf [(512, 0x01#8)] = false := by decide

/-! Decoding: words written out from `30_encoding.md`, every constructor at least once -/

/-- Classes 0, 1, 2 and 5 (R81 to R83, R86), with ignored bits set. -/
theorem test_decode_control :
    [(0b00000000#8, Instr.nop), (0b00000111#8, .nop), (0b00001000#8, .hlt), (0b00001111#8, .hlt),
      (0b01010000#8, .hlt), (0b01011111#8, .hlt), (0b00010000#8, .out), (0b00010111#8, .out),
      (0b00011000#8, .inp), (0b00011111#8, .inp), (0b00100000#8, .rcf), (0b00100111#8, .rcf),
      (0b00101000#8, .scf), (0b00101111#8, .scf)].all decodesTo = true := by decide

/-- Class 3 under the default BCOND_MAP (R80, R84; log 1). -/
theorem test_decode_branch :
    [(0b00110000#8, Instr.ba), (0b00110001#8, .bnz), (0b00110010#8, .bzp), (0b00110011#8, .bp),
      (0b00110100#8, .bni), (0b00110101#8, .bnc), (0b00110110#8, .bge), (0b00110111#8, .bgt),
      (0b00111000#8, .bvf), (0b00111001#8, .bz), (0b00111010#8, .bn), (0b00111011#8, .bzn), (0b00111100#8, .bno),
      (0b00111101#8, .bc), (0b00111110#8, .blt), (0b00111111#8, .ble)].all decodesTo = true := by decide

/-- Class 4 (R85): the eight operations on both registers. -/
theorem test_decode_shift :
    [(0b01000000#8, Instr.sra .acc), (0b01000001#8, .sla .acc), (0b01000010#8, .srl .acc),
      (0b01000011#8, .sll .acc), (0b01000100#8, .rra .acc), (0b01000101#8, .rla .acc), (0b01000110#8, .rrl .acc),
      (0b01000111#8, .rll .acc), (0b01001000#8, .sra .ix), (0b01001001#8, .sla .ix), (0b01001010#8, .srl .ix),
      (0b01001011#8, .sll .ix), (0b01001100#8, .rra .ix), (0b01001101#8, .rla .ix), (0b01001110#8, .rrl .ix),
      (0b01001111#8, .rll .ix)].all decodesTo = true := by decide

/-- Class 6 (R87): m = 2 and m = 3 are both immediate. -/
theorem test_decode_load :
    [(0b01100000#8, Instr.ldAcc .acc), (0b01100001#8, .ldIx .acc), (0b01100010#8, .ldImm .acc),
      (0b01100011#8, .ldImm .acc), (0b01100100#8, .ldAbst .acc), (0b01100101#8, .ldAbsd .acc),
      (0b01100110#8, .ldRelt .acc), (0b01100111#8, .ldReld .acc), (0b01101000#8, .ldAcc .ix),
      (0b01101001#8, .ldIx .ix), (0b01101010#8, .ldImm .ix), (0b01101011#8, .ldImm .ix),
      (0b01101100#8, .ldAbst .ix), (0b01101101#8, .ldAbsd .ix), (0b01101110#8, .ldRelt .ix),
      (0b01101111#8, .ldReld .ix)].all decodesTo = true := by decide

/-- Class 7 (R88): m from 4 on. -/
theorem test_decode_store :
    [(0b01110100#8, Instr.stAbst .acc), (0b01110101#8, .stAbsd .acc), (0b01110110#8, .stRelt .acc),
      (0b01110111#8, .stReld .acc), (0b01111100#8, .stAbst .ix), (0b01111101#8, .stAbsd .ix),
      (0b01111110#8, .stRelt .ix), (0b01111111#8, .stReld .ix)].all decodesTo = true := by decide

/-- Class 8 (R89): ACC in every mode, IX in m = 3 and m = 7. -/
theorem test_decode_sbc :
    [(0b10000000#8, Instr.sbcAcc .acc), (0b10000001#8, .sbcIx .acc), (0b10000010#8, .sbcImm .acc),
      (0b10000011#8, .sbcImm .acc), (0b10000100#8, .sbcAbst .acc), (0b10000101#8, .sbcAbsd .acc),
      (0b10000110#8, .sbcRelt .acc), (0b10000111#8, .sbcReld .acc), (0b10001011#8, .sbcImm .ix),
      (0b10001111#8, .sbcReld .ix)].all decodesTo = true := by decide

/-- Class 9 (R89): ACC in every mode, IX in m = 3 and m = 7. -/
theorem test_decode_adc :
    [(0b10010000#8, Instr.adcAcc .acc), (0b10010001#8, .adcIx .acc), (0b10010010#8, .adcImm .acc),
      (0b10010011#8, .adcImm .acc), (0b10010100#8, .adcAbst .acc), (0b10010101#8, .adcAbsd .acc),
      (0b10010110#8, .adcRelt .acc), (0b10010111#8, .adcReld .acc), (0b10011011#8, .adcImm .ix),
      (0b10011111#8, .adcReld .ix)].all decodesTo = true := by decide

/-- Class A (R89): ACC in every mode, IX in m = 3 and m = 7. -/
theorem test_decode_sub :
    [(0b10100000#8, Instr.subAcc .acc), (0b10100001#8, .subIx .acc), (0b10100010#8, .subImm .acc),
      (0b10100011#8, .subImm .acc), (0b10100100#8, .subAbst .acc), (0b10100101#8, .subAbsd .acc),
      (0b10100110#8, .subRelt .acc), (0b10100111#8, .subReld .acc), (0b10101011#8, .subImm .ix),
      (0b10101111#8, .subReld .ix)].all decodesTo = true := by decide

/-- Class B (R89): ACC in every mode, IX in m = 3 and m = 7. -/
theorem test_decode_add :
    [(0b10110000#8, Instr.addAcc .acc), (0b10110001#8, .addIx .acc), (0b10110010#8, .addImm .acc),
      (0b10110011#8, .addImm .acc), (0b10110100#8, .addAbst .acc), (0b10110101#8, .addAbsd .acc),
      (0b10110110#8, .addRelt .acc), (0b10110111#8, .addReld .acc), (0b10111011#8, .addImm .ix),
      (0b10111111#8, .addReld .ix)].all decodesTo = true := by decide

/-- Class C (R89): ACC in every mode, IX in m = 3 and m = 7. -/
theorem test_decode_eor :
    [(0b11000000#8, Instr.eorAcc .acc), (0b11000001#8, .eorIx .acc), (0b11000010#8, .eorImm .acc),
      (0b11000011#8, .eorImm .acc), (0b11000100#8, .eorAbst .acc), (0b11000101#8, .eorAbsd .acc),
      (0b11000110#8, .eorRelt .acc), (0b11000111#8, .eorReld .acc), (0b11001011#8, .eorImm .ix),
      (0b11001111#8, .eorReld .ix)].all decodesTo = true := by decide

/-- Class D (R89): ACC in every mode, IX in m = 3 and m = 7. -/
theorem test_decode_or :
    [(0b11010000#8, Instr.orAcc .acc), (0b11010001#8, .orIx .acc), (0b11010010#8, .orImm .acc),
      (0b11010011#8, .orImm .acc), (0b11010100#8, .orAbst .acc), (0b11010101#8, .orAbsd .acc),
      (0b11010110#8, .orRelt .acc), (0b11010111#8, .orReld .acc), (0b11011011#8, .orImm .ix),
      (0b11011111#8, .orReld .ix)].all decodesTo = true := by decide

/-- Class E (R89): ACC in every mode, IX in m = 3 and m = 7. -/
theorem test_decode_and :
    [(0b11100000#8, Instr.andAcc .acc), (0b11100001#8, .andIx .acc), (0b11100010#8, .andImm .acc),
      (0b11100011#8, .andImm .acc), (0b11100100#8, .andAbst .acc), (0b11100101#8, .andAbsd .acc),
      (0b11100110#8, .andRelt .acc), (0b11100111#8, .andReld .acc), (0b11101011#8, .andImm .ix),
      (0b11101111#8, .andReld .ix)].all decodesTo = true := by decide

/-- Class F (R89): ACC in every mode, IX in m = 3 and m = 7. -/
theorem test_decode_cmp :
    [(0b11110000#8, Instr.cmpAcc .acc), (0b11110001#8, .cmpIx .acc), (0b11110010#8, .cmpImm .acc),
      (0b11110011#8, .cmpImm .acc), (0b11110100#8, .cmpAbst .acc), (0b11110101#8, .cmpAbsd .acc),
      (0b11110110#8, .cmpRelt .acc), (0b11110111#8, .cmpReld .acc), (0b11111011#8, .cmpImm .ix),
      (0b11111111#8, .cmpReld .ix)].all decodesTo = true := by decide

/-- The only failures (R90). -/
theorem test_decode_failures :
    [0x70#8, 0x71#8, 0x72#8, 0x73#8, 0x78#8, 0x79#8, 0x7A#8, 0x7B#8].all (fun b => decide (decode b = .fail b)) = true := by
  decide

/-- The table word's operand byte is its second byte, and an illegal opcode gives none. -/
theorem test_decode_table_word :
    decodeTableWord 16 0x096A = some (.ldImm .ix) ∧ decodeTableWord 8 0x47 = some (.rll .acc) ∧
    decodeTableWord 8 0x33 = some .bp ∧ decodeTableWord 16 0x0072 = none := by decide

/-- A word placed at the reset state is in IR at p2, and the very next step runs it (LD IX, 9: MAR 01, PC 02). -/
theorem test_placed_word_is_run :
    step (State.reset.withFetchWord 16 0x096A) = exec (.ldImm .ix) (State.reset.withFetchWord 16 0x096A) ∧
    (after (State.reset.withFetchWord 16 0x096A)).mar = 0x01#8 := ⟨rfl, by decide⟩

/-! The unit: `95_test_vectors.md` sections 2.2 to 2.4 -/

theorem test_compute_adc :
    [(0x7E#8, 0x02#8, 0x0#4, 0x80#8, 0x6#4, 0x6#4), (0x7E#8, 0x01#8, 0x8#4, 0x80#8, 0x6#4, 0x6#4),
     (0xFF#8, 0x01#8, 0x0#4, 0x00#8, 0x1#4, 0x9#4), (0xFF#8, 0x00#8, 0x8#4, 0x00#8, 0x1#4, 0x9#4),
     (0x80#8, 0x80#8, 0x0#4, 0x00#8, 0x9#4, 0x9#4), (0x7F#8, 0x7F#8, 0x8#4, 0xFF#8, 0x6#4, 0x6#4),
     (0x00#8, 0x00#8, 0x0#4, 0x00#8, 0x1#4, 0x1#4), (0x80#8, 0xFF#8, 0x0#4, 0x7F#8, 0xC#4, 0xC#4)].all (computes .adc) = true := by decide

theorem test_compute_sbc :
    [(0x05#8, 0x03#8, 0x0#4, 0x02#8, 0x0#4, 0x0#4), (0x05#8, 0x03#8, 0x8#4, 0x03#8, 0x0#4, 0x0#4),
     (0x03#8, 0x05#8, 0x0#4, 0xFE#8, 0xE#4, 0xE#4), (0x00#8, 0x00#8, 0x8#4, 0x01#8, 0x0#4, 0x0#4),
     (0x7F#8, 0x80#8, 0x8#4, 0x00#8, 0x9#4, 0x1#4), (0x80#8, 0x7F#8, 0x0#4, 0x01#8, 0x8#4, 0x0#4),
     (0x00#8, 0x01#8, 0x8#4, 0x00#8, 0x1#4, 0x1#4)].all (computes .sbc) = true := by decide

theorem test_compute_sub :
    [(0x09#8, 0x01#8, 0x0#4, 0x08#8, 0x0#4, 0x0#4), (0x01#8, 0x01#8, 0x8#4, 0x00#8, 0x1#4, 0x1#4),
     (0x00#8, 0x01#8, 0x0#4, 0xFF#8, 0xA#4, 0xA#4), (0x80#8, 0x01#8, 0x0#4, 0x7F#8, 0x8#4, 0x0#4),
     (0x7F#8, 0xFF#8, 0x0#4, 0x80#8, 0x2#4, 0xA#4), (0x50#8, 0x50#8, 0x0#4, 0x00#8, 0x1#4, 0x1#4),
     (0x40#8, 0x7F#8, 0x0#4, 0xC1#8, 0xE#4, 0xE#4)].all (computes .sub) = true := by decide

theorem test_compute_add :
    [(0x01#8, 0x01#8, 0x8#4, 0x02#8, 0x0#4, 0x0#4), (0x7F#8, 0x01#8, 0x0#4, 0x80#8, 0x6#4, 0x6#4),
     (0xFF#8, 0x01#8, 0x0#4, 0x00#8, 0x1#4, 0x9#4), (0xFF#8, 0xFF#8, 0x0#4, 0xFE#8, 0xA#4, 0xA#4),
     (0x80#8, 0x80#8, 0x0#4, 0x00#8, 0x9#4, 0x9#4), (0x80#8, 0x81#8, 0x0#4, 0x01#8, 0xC#4, 0xC#4),
     (0x00#8, 0x00#8, 0x8#4, 0x00#8, 0x1#4, 0x1#4), (0x64#8, 0x64#8, 0x0#4, 0xC8#8, 0x6#4, 0x6#4)].all (computes .add) = true := by decide

theorem test_compute_eor :
    [(0xAA#8, 0xFF#8, 0xC#4, 0x55#8, 0x8#4, 0x8#4), (0x55#8, 0x55#8, 0x8#4, 0x00#8, 0x9#4, 0x9#4)].all (computes .eor) = true := by decide

theorem test_compute_or :
    [(0x80#8, 0x01#8, 0x4#4, 0x81#8, 0x2#4, 0x2#4), (0x00#8, 0x00#8, 0x8#4, 0x00#8, 0x9#4, 0x9#4)].all (computes .or) = true := by decide

theorem test_compute_and :
    [(0xF0#8, 0x0F#8, 0xC#4, 0x00#8, 0x9#4, 0x9#4), (0xFF#8, 0x80#8, 0x0#4, 0x80#8, 0x2#4, 0x2#4)].all (computes .and) = true := by decide

theorem test_compute_cmp :
    [(0x05#8, 0x05#8, 0x8#4, 0x00#8, 0x9#4, 0x9#4), (0x03#8, 0x05#8, 0x0#4, 0xFE#8, 0x6#4, 0x6#4),
     (0x03#8, 0x05#8, 0x8#4, 0xFE#8, 0xE#4, 0xE#4), (0x80#8, 0x01#8, 0x0#4, 0x7F#8, 0x0#4, 0x0#4),
     (0x7F#8, 0xFF#8, 0x8#4, 0x80#8, 0xA#4, 0xA#4), (0x81#8, 0x82#8, 0x0#4, 0xFF#8, 0x2#4, 0x2#4)].all (computes .cmp) = true := by decide

theorem test_shift_81 :
    shift 0x81#8 .ra = (0xC0#8, true) ∧ shift 0x81#8 .la = (0x82#8, true) ∧ shift 0x81#8 .rl = (0x40#8, true) ∧
    shift 0x81#8 .ll = (0x02#8, true) := by decide

theorem test_shift_42 :
    shift 0x42#8 .ra = (0x21#8, false) ∧ shift 0x42#8 .la = (0x04#8, false) ∧ shift 0x42#8 .rl = (0x21#8, false) ∧
    shift 0x42#8 .ll = (0x84#8, false) := by decide

theorem test_rotate_81 :
    rotate 0x81#8 .ra false = (0x40#8, true) ∧ rotate 0x81#8 .ra true = (0xC0#8, true) ∧
    rotate 0x81#8 .la false = (0x02#8, true) ∧ rotate 0x81#8 .la true = (0x03#8, true) ∧
    rotate 0x81#8 .rl true = (0xC0#8, true) ∧ rotate 0x81#8 .ll false = (0x03#8, true) := by decide

theorem test_branch_truth_table :
    [(Cond.always, 0xFFFF#16), (.overflow, 0xF0F0#16), (.notZero, 0x5555#16), (.zero, 0xAAAA#16),
     (.notNegative, 0x3333#16), (.negative, 0xCCCC#16), (.positive, 0x1111#16), (.zeroOrNegative, 0xEEEE#16),
     (.carryClear, 0x00FF#16), (.carrySet, 0xFF00#16), (.signedGe, 0xC3C3#16), (.signedLt, 0x3C3C#16),
     (.signedGt, 0x4141#16), (.signedLe, 0xBEBE#16)].all takenOn = true := by decide

/-! One step of an instruction: `95_test_vectors.md` sections 2.5 to 2.9 and 2.10 -/

theorem test_reset_first_step : (after State.reset).pc = 0x01#8 ∧ (after State.reset).phase = .p1 := by decide

/-- Text `00 72`, section 2.10: the p1 at address 1 raises with the byte. -/
theorem test_illegal_fetch_raises :
    step { start [0x00#8, 0x72#8] [] with mar := 0x01#8, phase := .p1 } = .fault (.invalidInstruction 0x72#8) := rfl

theorem test_sra_p2 :
    after (running .p2 (.sra .acc) { State.reset with acc := 0x81#8 }) =
      running .p3 (.sra .acc) { State.reset with acc := 0xC0#8, flags := flagsOf 0x8#4 } := by decide

theorem test_sla_p3 : (after (running .p3 (.sla .acc) { State.reset with acc := 0x04#8, flags := flagsOf 0x7#4 })).flags =
    flagsOf 0x0#4 := by decide

theorem test_srl_p2 : (after (running .p2 (.srl .ix) { State.reset with ix := 0xFF#8 })).ix = 0x7F#8 := by decide

theorem test_sll_p3 : (after (running .p3 (.sll .acc) { State.reset with flags := flagsOf 0xE#4 })).flags = flagsOf 0x9#4 := by decide

theorem test_rra_p2 :
    after (running .p2 (.rra .acc) { State.reset with flags := flagsOf 0x9#4 }) =
      running .p3 (.rra .acc) { State.reset with acc := 0x80#8, flags := flagsOf 0x1#4 } := by decide

theorem test_rla_p2 : (after (running .p2 (.rla .acc) { State.reset with acc := 0x80#8 })).flags = flagsOf 0x8#4 := by decide

theorem test_rrl_p2 : (after (running .p2 (.rrl .acc) { State.reset with acc := 0x01#8 })).acc = 0x80#8 := by decide

theorem test_rll_p2 : (after (running .p2 (.rll .acc) { State.reset with acc := 0x80#8 })).acc = 0x01#8 := by decide

theorem test_add_acc_acc :
    after (running .p2 (.addAcc .acc) { State.reset with acc := 0x90#8 }) =
      running .p3 (.addAcc .acc) { State.reset with acc := 0x20#8, flags := flagsOf 0xC#4 } := by decide

theorem test_add_own_opcode :
    (after { running .p4 (.addAbsd .acc) (start [0xB5#8, 0x00#8] [0x07#8]) with mar := 0x00#8 }).acc = 0xB5#8 := by decide

theorem test_sub_immediate :
    (after { running .p3 (.subImm .ix) (start [0xAA#8, 0x01#8] []) with mar := 0x01#8, ix := 0x09#8 }).ix = 0x08#8 := by decide

theorem test_sbc_immediate :
    (after { running .p3 (.sbcImm .ix) (start [0x8B#8, 0x05#8] []) with
      mar := 0x01#8, ix := 0x10#8, flags := flagsOf 0x8#4 }).ix = 0x0C#8 := by decide

theorem test_adc_absolute_data_reads_text :
    (after { running .p4 (.adcAbsd .acc) (start [0x95#8, 0x03#8, 0x00#8, 0x7F#8] [0#8, 0#8, 0#8, 0x11#8]) with
      mar := 0x03#8, acc := 0x01#8, flags := flagsOf 0x8#4 }).acc = 0x81#8 := by decide

theorem test_cmp_overwrites :
    after (running .p2 (.cmpIx .acc) { State.reset with acc := 0x05#8, ix := 0x05#8, flags := flagsOf 0x8#4 }) =
      running .p3 (.cmpIx .acc) { State.reset with acc := 0x00#8, ix := 0x05#8, flags := flagsOf 0x9#4 } := by decide

theorem test_eor_direct :
    (after (running .p2 (.eorAcc .ix) { State.reset with acc := 0x0F#8, ix := 0xF0#8, flags := flagsOf 0xC#4 })).flags =
      flagsOf 0xA#4 := by decide

theorem test_or_direct :
    (after (running .p2 (.orIx .ix) { State.reset with flags := flagsOf 0xC#4 })).flags = flagsOf 0x9#4 := by decide

theorem test_and_relative_text :
    (after { running .p4 (.andRelt .acc) (start [0xE6#8, 0x02#8, 0x00#8, 0x0F#8] []) with
      mar := 0x03#8, acc := 0xFC#8, ix := 0x01#8 }).acc = 0x0C#8 := by decide

theorem test_out_p2 : (after (running .p2 .out { State.reset with acc := 0x2A#8 })).obuf = { value := 0x2A#8, ready := false } := by decide
theorem test_out_p3 :
    (after (running .p3 .out { State.reset with obuf := { value := 0x2A#8, ready := false } })).obuf =
      { value := 0x2A#8, ready := true } := by decide
theorem test_in_p2 :
    (after (running .p2 .inp { State.reset with ibuf := { value := 0x37#8, ready := true } })).acc = 0x37#8 := by decide
theorem test_in_p3 :
    (after (running .p3 .inp { State.reset with ibuf := { value := 0x37#8, ready := true } })).ibuf =
      { value := 0x37#8, ready := false } := by decide
theorem test_rcf : (after (running .p2 .rcf { State.reset with flags := flagsOf 0xF#4 })).flags = flagsOf 0x7#4 := by decide
theorem test_scf : (after (running .p2 .scf { State.reset with flags := flagsOf 0x1#4 })).flags = flagsOf 0x9#4 := by decide
theorem test_hlt_signals : signal (running .p4 .hlt State.reset) = .halt ∧ signal { running .p1 .hlt State.reset with pc := 1#8 } = .cont := by decide

theorem test_ba_p3 :
    (after { running .p3 .ba (start [0x30#8, 0x05#8] []) with mar := 0x01#8, pc := 0x02#8 }).pc = 0x05#8 := by decide
theorem test_bz_not_taken :
    (after { running .p3 .bz (start [0x39#8, 0x05#8] []) with mar := 0x01#8, pc := 0x02#8 }).pc = 0x02#8 := by decide

theorem test_ld_direct : (after (running .p2 (.ldIx .acc) { State.reset with ix := 0x7B#8 })).acc = 0x7B#8 := by decide
theorem test_ld_text :
    (after { running .p4 (.ldAbst .acc) (start [0x64#8, 0x03#8, 0x00#8, 0xEE#8] []) with mar := 0x03#8 }).acc = 0xEE#8 := by decide
theorem test_ld_data :
    (after { running .p4 (.ldAbsd .acc) (start [0x65#8, 0x03#8, 0x00#8, 0xEE#8] [0#8, 0#8, 0#8, 0x11#8]) with mar := 0x03#8 }).acc =
      0x11#8 := by decide
theorem test_ld_relative_wraps :
    (after { running .p3 (.ldReld .acc) (start [0x67#8, 0x02#8] []) with mar := 0x01#8, ix := 0xFF#8 }).mar = 0x01#8 := by decide
theorem test_st_text :
    (after { running .p4 (.stAbst .acc) State.reset with mar := 0x10#8, acc := 0x99#8 }).byteAt .text 0x10#8 = 0x99#8 := by decide
theorem test_st_data :
    (after { running .p4 (.stReld .ix) State.reset with mar := 0x00#8, ix := 0xFF#8 }).mem = [(256, 0xFF#8)] := by decide

/-! Witnesses: the hypotheses of every obligation that has some can all be met -/

/-- Lines with and without an operand byte. -/
theorem witness_DecodeEncodeRoundTrip :
    CodeLine.wf ⟨.nop, none⟩ = true ∧ CodeLine.wf ⟨.cmpReld .ix, some 0xFF#8⟩ = true := by decide

theorem witness_DecodeMatchesCanonicalOpcode :
    decode 0x5F#8 = .instr .hlt ∧ (¬ 0x77#8 ∈ illegalOpcodes ∧ canonicalOpcode 0x77#8 = encodeOpcode (.stReld .acc)) := by decide

/-- Both ranges of bytes at their ends, and a p1 that fetches an illegal byte. -/
theorem witness_IllegalBytesAreExactlyEight :
    0x70#8 ∈ illegalOpcodes ∧ 0x73#8 ∈ illegalOpcodes ∧ 0x78#8 ∈ illegalOpcodes ∧ 0x7B#8 ∈ illegalOpcodes ∧
    ¬ 0x6F#8 ∈ illegalOpcodes ∧ ¬ 0x74#8 ∈ illegalOpcodes ∧ ¬ 0x77#8 ∈ illegalOpcodes ∧ ¬ 0x7C#8 ∈ illegalOpcodes ∧
    ({ start [0x7B#8] [] with phase := .p1 }).phase = .p1 ∧
    ({ start [0x7B#8] [] with phase := .p1 }).byteAt .text 0x00#8 ∈ illegalOpcodes := by decide

theorem witness_IllegalBytesAreExactlyEight_fault :
    step { start [0x7B#8] [] with phase := .p1 } = .fault (.invalidInstruction 0x7B#8) := rfl

theorem witness_OpcodeByteTellsLength :
    decodeWith bcondDefault 0x61#8 = .instr (.ldIx .acc) ∧ decodeWith bcondDefault 0x62#8 = .instr (.ldImm .acc) ∧
    decodeWith bcondDefault 0x30#8 = .instr .ba ∧ decodeWith bcondDefault 0xFF#8 = .instr (.cmpReld .ix) := by decide

/-- The ends of the mode fields and of the operation classes, on both registers. -/
theorem witness_FieldClassesDecode :
    Reg.ix = (if 1#1 = 1#1 then .ix else .acc) ∧ Reg.acc = (if 0#1 = 1#1 then .ix else .acc) ∧
    ShiftMode.bits .ra = 0#2 ∧ ShiftMode.bits .ll = 3#2 ∧ LoadMode.bits .accd = 0#3 ∧ LoadMode.bits .reld = 7#3 ∧
    BinOp.opcodeClass .sbc = 8#4 ∧ BinOp.opcodeClass .cmp = 15#4 ∧ StoreMode.bits .abst = 4#3 ∧
    StoreMode.bits .reld = 7#3 ∧ 3#3 < 4#3 := by decide

theorem witness_StepRunsDecodedInstruction :
    isExecutePhase (running .p4 .hlt State.reset).phase = true ∧ (running .p4 .hlt State.reset).ir = some .hlt ∧
    (start [0x77#8, 0x00#8] []).phase = .p0 ∧
    decode ((start [0x77#8, 0x00#8] []).byteAt .text (start [0x77#8, 0x00#8] []).pc) = .instr (.stReld .acc) := by decide

theorem witness_OpcodeAddressPhase : (start [0x08#8] []).phase = .p0 := by decide

theorem witness_OpcodeFetchPhase :
    ({ start [0x08#8] [] with phase := .p1 }).phase = .p1 ∧
    decodeWith Params.standard.bcondMap (({ start [0x08#8] [] with phase := .p1 }).byteAt .text 0x00#8) = .instr .hlt ∧
    decodeWith Params.standard.bcondMap (({ start [0x70#8] [] with phase := .p1 }).byteAt .text 0x00#8) = .fail 0x70#8 := by decide

/-- A step that goes on in each of the five phases. -/
theorem witness_PhaseAdvancesByOne :
    (∃ t, step State.reset = .next t) ∧ (∃ t, step { State.reset with phase := .p1 } = .next t) ∧
    (∃ t, step (running .p2 .out State.reset) = .next t) ∧ (∃ t, step (running .p3 .out State.reset) = .next t) ∧
    ∃ t, step (running .p4 .out State.reset) = .next t := ⟨⟨_, rfl⟩, ⟨_, rfl⟩, ⟨_, rfl⟩, ⟨_, rfl⟩, ⟨_, rfl⟩⟩

theorem witness_PhaseOfNthStep : ∃ t, stepTimes 7 (start [0x10#8] []) = .next t := ⟨_, rfl⟩

theorem witness_HaltSignalsAndResumes :
    (running .p2 .hlt State.reset).phase = .p2 ∧ (running .p3 .hlt State.reset).phase = .p3 ∧
    (running .p4 .hlt State.reset).phase = .p4 ∧ (running .p2 .hlt State.reset).ir = some .hlt := by decide

theorem witness_OnlyIllegalOpcodeFetchFaults :
    step { start [0x70#8] [] with phase := .p1 } = .fault (.invalidInstruction 0x70#8) := rfl

theorem witness_DecodeFaultKeepsFetchAddress :
    (start [0x79#8] []).phase = .p0 ∧ (start [0x79#8] []).byteAt .text (start [0x79#8] []).pc ∈ illegalOpcodes ∧
    (after (start [0x79#8] [])).phase = .p1 := by decide

theorem witness_StepGoesOnUnlessAboutToFault :
    Inv (start [0x76#8, 0x00#8] []) ∧ aboutToFault (start [0x76#8, 0x00#8] []) = false :=
  ⟨⟨by decide, by decide⟩, by decide⟩

theorem witness_InvariantKept :
    Inv (running .p4 (.stAbst .acc) { State.reset with acc := 0x08#8 }) ∧
    (∃ t, step (running .p4 (.stAbst .acc) { State.reset with acc := 0x08#8 }) = .next t) ∧
    (∃ t, applyMove (.supplyInput 0x5A#8) (running .p4 (.stAbst .acc) { State.reset with acc := 0x08#8 }) = .next t) :=
  ⟨⟨by decide, by decide⟩, ⟨_, rfl⟩, ⟨_, rfl⟩⟩

/-- A state reached by a step and a host move from a constructed one. -/
theorem witness_ReachableStatesNeverRefused :
    ∃ t, Reachable t ∧ t.phase = .p1 :=
  ⟨_, ⟨[0x18#8], [], _, [.step, .host (.supplyInput 0x5A#8)], rfl, rfl⟩, rfl⟩

theorem witness_ConstructionPlacesOrRejectsImages :
    (List.replicate 256 (0xFF#8 : Byte)).length ≤ 256 ∧ (List.replicate 257 (0xFF#8 : Byte)).length > 256 ∧
    ([] : List Byte).length ≤ 256 := by
  rw [List.length_replicate, List.length_replicate]; decide

/-- The four storing modes each change a byte. -/
theorem witness_MemoryWrittenOnlyByStores :
    [(Instr.stAbst .acc, Segment.text), (.stRelt .acc, .text), (.stAbsd .acc, .data), (.stReld .acc, .data)].all (fun x =>
      let s := { running .p4 x.1 State.reset with acc := 0x99#8, mar := 0xFF#8 }
      Memory.wf s.mem && goesOn s && (after s).byteAt x.2 0xFF#8 != s.byteAt x.2 0xFF#8) = true := by decide

/-- The three ways. -/
theorem witness_ProgramCounterChangesInThreeWays :
    [State.reset, running .p2 (.ldImm .acc) State.reset, running .p3 .ba (start [0x05#8] [])].all (fun s =>
      goesOn s && (after s).pc != s.pc) = true := by decide

/-- The three writers of MAR, both kinds of resolution, and the writer of IR. -/
theorem witness_AddressAndInstructionRegisterWriters :
    [{ State.reset with pc := 0x05#8 }, { running .p2 .ba State.reset with pc := 0x05#8 },
      running .p3 (.stAbsd .acc) (start [0x05#8] []), running .p3 (.ldRelt .acc) (start [0x05#8] [])].all (fun s =>
      goesOn s && (after s).mar != s.mar) = true ∧
    (after { State.reset with phase := .p1 }).ir ≠ State.reset.ir := by decide

/-- Every kind of writer of a flag. -/
theorem witness_FlagWriters :
    [running .p2 .scf State.reset, running .p2 (.sra .acc) { State.reset with acc := 0x01#8 },
      running .p3 (.rra .acc) State.reset, running .p2 (.cmpAcc .acc) State.reset].all (fun s =>
      goesOn s && decide ((after s).flags ≠ s.flags)) = true := by decide

/-- Every kind of writer of a register. -/
theorem witness_GeneralRegisterWriters :
    [running .p2 .inp { State.reset with acc := 0x55#8 }, running .p3 (.ldImm .acc) (start [0x08#8] []),
      running .p2 (.srl .acc) { State.reset with acc := 0xFF#8 }, running .p4 (.addRelt .acc) (start [0x08#8] [])].all (fun s =>
      goesOn s && (after s).reg .acc != s.reg .acc) = true := by decide

theorem witness_BufferWriters :
    (after (running .p3 .inp { State.reset with ibuf := { value := 0x01#8, ready := true } })).ibuf.ready = false ∧
    (after (running .p2 .out { State.reset with acc := 0x01#8 })).obuf.value ≠ State.reset.obuf.value ∧
    (after (running .p3 .out State.reset)).obuf.ready ≠ State.reset.obuf.ready := by decide

theorem witness_HostMovesTouchOnlyTheBuffers :
    Params.standard.hostMayClearObufReady = true ∧
    ({ Params.standard with hostMayClearObufReady := false }).hostMayClearObufReady = false := by decide

theorem witness_RegisterSelector : Reg.ix ≠ Reg.acc := by decide

theorem witness_NoOpHasNoEffect :
    (running .p2 .nop State.reset).phase = .p2 ∧ (running .p3 .nop State.reset).phase = .p3 ∧
    (running .p4 .nop State.reset).phase = .p4 ∧ (running .p2 .nop State.reset).ir = some .nop := by decide

theorem witness_OutputPhases :
    (running .p2 .out State.reset).phase = .p2 ∧ (running .p3 .out State.reset).phase = .p3 ∧
    (running .p4 .out State.reset).phase = .p4 := by decide

theorem witness_InputPhases :
    (running .p2 .inp State.reset).phase = .p2 ∧ (running .p3 .inp State.reset).phase = .p3 ∧
    (running .p4 .inp State.reset).phase = .p4 := by decide

theorem witness_CarryInstructionPhases :
    (running .p2 .scf State.reset).phase = .p2 ∧ (running .p3 .rcf State.reset).phase = .p3 ∧
    (running .p4 .scf State.reset).phase = .p4 := by decide

theorem witness_BranchPhases :
    (running .p2 .ble State.reset).phase = .p2 ∧ (running .p4 .ble State.reset).phase = .p4 ∧
    ((running .p3 .ble State.reset).phase = .p3 ∧ condHolds .signedLe State.reset.flags false false = false) ∧
    condHolds .always State.reset.flags false false = true ∧ bcondDefault 0xF#4 = .signedLe := by decide

theorem witness_FlagBranchPredicates : (running .p3 .ble State.reset).phase = .p3 := by decide

theorem witness_HandshakeBranchPredicates : (running .p3 .bno State.reset).phase = .p3 := by decide

theorem witness_LoadPhases :
    (running .p2 (.ldAcc .ix) State.reset).phase = .p2 ∧ (running .p3 (.ldImm .ix) State.reset).phase = .p3 ∧
    (running .p4 (.ldReld .ix) State.reset).phase = .p4 := by decide

theorem witness_StorePhases :
    (running .p2 (.stAbst .ix) State.reset).phase = .p2 ∧ (running .p3 (.stRelt .ix) State.reset).phase = .p3 ∧
    ((running .p4 (.stReld .ix) State.reset).phase = .p4 ∧ Memory.wf (running .p4 (.stReld .ix) State.reset).mem = true) := by decide

theorem witness_BinaryAddressPhases :
    ((running .p2 (.sbcImm .ix) State.reset).phase = .p2 ∧ LoadMode.imm ≠ .accd ∧ LoadMode.imm ≠ .ixd) ∧
    (running .p3 (.cmpAcc .ix) State.reset).phase = .p3 ∧ (running .p4 (.cmpImm .ix) State.reset).phase = .p4 := by decide

/-- The compute phases of the three kinds of mode, and the operand of each, for every operation. -/
theorem witness_ComputePhases :
    (running .p2 (.adcIx .acc) { State.reset with ix := 0x05#8 }).phase = computePhase .ixd ∧
    (running .p3 (.adcImm .acc) (start [0x7F#8] [])).phase = computePhase .imm ∧
    (running .p4 (.adcReld .acc) (start [0x7F#8] [])).phase = computePhase .reld ∧
    (running .p4 (.adcReld .acc) (start [0x7F#8] [])).byteAt .text 0x00#8 = 0x7F#8 := by decide

theorem witness_SbcComputePhase :
    ∃ (x res : Byte) (w : Int), (running .p2 (.sbcAcc .acc) State.reset).phase = computePhase .accd ∧
      x = State.reset.acc ∧ w = s8 0x00#8 - s8 x + 0 ∧ res = 0x00#8 - x + 0x00#8 := ⟨_, _, _, by decide, rfl, rfl, rfl⟩

theorem witness_AdcComputePhase :
    ∃ (x res : Byte) (w : Int), (running .p2 (.adcAcc .acc) State.reset).phase = computePhase .accd ∧
      x = State.reset.acc ∧ w = s8 0x00#8 + s8 x + 0 ∧ res = 0x00#8 + x + 0x00#8 := ⟨_, _, _, by decide, rfl, rfl, rfl⟩

theorem witness_SubComputePhase :
    ∃ (x res : Byte) (w : Int), (running .p3 (.subImm .acc) (start [0x01#8] [])).phase = computePhase .imm ∧
      x = (running .p3 (.subImm .acc) (start [0x01#8] [])).byteAt .text 0x00#8 ∧ w = s8 0x00#8 - s8 x ∧ res = 0x00#8 - x :=
  ⟨_, _, _, by decide, rfl, rfl, rfl⟩

theorem witness_AddComputePhase :
    ∃ (x res : Byte) (w : Int), (running .p4 (.addAbst .acc) (start [0x01#8] [])).phase = computePhase .abst ∧
      x = (running .p4 (.addAbst .acc) (start [0x01#8] [])).byteAt .text 0x00#8 ∧ w = s8 0x00#8 + s8 x ∧ res = 0x00#8 + x :=
  ⟨_, _, _, by decide, rfl, rfl, rfl⟩

theorem witness_LogicComputePhase :
    (running .p2 (.andIx .acc) State.reset).phase = computePhase .ixd ∧ (running .p4 (.orReld .acc) State.reset).phase = computePhase .reld := by decide

theorem witness_CmpComputePhase :
    ∃ x res : Byte, (running .p2 (.cmpIx .acc) { State.reset with ix := 0x05#8 }).phase = computePhase .ixd ∧
      x = 0x05#8 ∧ res = 0x00#8 - x := ⟨_, _, by decide, rfl, rfl⟩

theorem witness_BinaryDataModesReadText :
    ∃ p q : Params, p.binopDataOperandSegment = .data ∧ q = { p with binopDataOperandSegment := .text } ∧
      (running .p4 (.addAbsd .acc) State.reset).phase = .p4 ∧ (running .p3 (.addAbsd .acc) State.reset).phase ≠ .p4 :=
  ⟨{ Params.standard with binopDataOperandSegment := .data }, _, rfl, rfl, by decide, by decide⟩

theorem witness_ShiftPhases :
    (running .p2 (.sra .ix) State.reset).phase = .p2 ∧ (running .p3 (.sla .ix) State.reset).phase = .p3 ∧
    (running .p4 (.sll .ix) State.reset).phase = .p4 := by decide

theorem witness_RotatePhases :
    (running .p2 (.rra .ix) State.reset).phase = .p2 ∧ (running .p3 (.rla .ix) State.reset).phase = .p3 ∧
    (running .p4 (.rll .ix) State.reset).phase = .p4 := by decide

/-- The end positions of the bit ranges. -/
theorem witness_ShiftAndRotateBits : (6 : Nat) < 7 ∧ (5 : Nat) < 6 ∧ ¬ (6 : Nat) < 6 := by decide

theorem witness_CarryFlagRule :
    ∃ x y c : Int, x = s8 0x80#8 ∧ y = s8 0xFF#8 ∧ c = (if (flagsOf 0x8#4).cf = true then 1 else 0) ∧ x = -128 ∧ y = -1 ∧ c = 1 :=
  ⟨_, _, _, rfl, rfl, rfl, by decide, by decide, by decide⟩

theorem witness_WideningOnlyAffectsCarry : BinOp.cmp = .cmp ∨ BinOp.cmp = .eor := by decide

theorem witness_SignedBranchAfterCompareOfPositives : s8 0x7F#8 > 0 ∧ s8 0x01#8 > 0 := by decide

theorem witness_FiveStepsComputeInstruction :
    (start [0x9D#8, 0x03#8] []).phase = .p0 ∧
    decode ((start [0x9D#8, 0x03#8] []).byteAt .text (start [0x9D#8, 0x03#8] []).pc) = .instr (.adcAbsd .ix) := by decide

theorem witness_InstructionRegisterNotInterpretedInFetch :
    (start [0x10#8] []).phase = .p0 ∧ ∃ t, stepWith Params.standard (start [0x10#8] []) = .next t :=
  ⟨by decide, _, rfl⟩

/-- BNO outside its p3, and another branch at p3. -/
theorem witness_OutputReadySeenOnlyByBno :
    (∃ t, step (running .p2 .bno State.reset) = .next t) ∧
    ¬ ((running .p2 .bno State.reset).phase = .p3 ∧ (running .p2 .bno State.reset).ir = some .bno) ∧
    (∃ t, step (running .p3 .bni State.reset) = .next t) ∧
    ¬ ((running .p3 .bni State.reset).phase = .p3 ∧ (running .p3 .bni State.reset).ir = some .bno) :=
  ⟨⟨_, rfl⟩, by decide, ⟨_, rfl⟩, by decide⟩

theorem witness_DataSegmentReadOnlyByDataLoads :
    (∀ a : Byte, Memory.read [(0, 0x10#8), (256, 0x02#8)] (physical .text a) = (start [0x10#8] [0x01#8]).byteAt .text a) ∧
    Memory.wf [(0, 0x10#8), (256, 0x02#8)] = true ∧ Memory.wf (start [0x10#8] [0x01#8]).mem = true ∧
    (∀ r, ¬ ((start [0x10#8] [0x01#8]).phase = .p4 ∧
      ((start [0x10#8] [0x01#8]).ir = some (.ldAbsd r) ∨ (start [0x10#8] [0x01#8]).ir = some (.ldReld r)))) ∧
    ∃ t, step (start [0x10#8] [0x01#8]) = .next t :=
  ⟨by decide, by decide, by decide, by intro r h; exact absurd h.1 (by decide), _, rfl⟩

theorem witness_StoreToTextIsFetchedNext :
    let s := running .p4 (.stRelt .acc) { State.reset with acc := 0x08#8, mar := 0x06#8, pc := 0x06#8 }
    Memory.wf s.mem = true ∧ s.phase = .p4 ∧ s.ir = some (.stRelt .acc) ∧ s.mar = s.pc ∧ decode (s.reg .acc) = .instr .hlt := by decide

theorem witness_EqualReadsEqualMemory :
    Memory.wf [(0, 0x01#8), (511, 0xFF#8)] = true ∧
    ∀ (g : Segment) (a : Byte), Memory.read [(0, 0x01#8), (511, 0xFF#8)] (physical g a) =
      Memory.read [(0, 0x01#8), (511, 0xFF#8)] (physical g a) := ⟨by decide, fun _ _ => rfl⟩

theorem witness_RunEndsAtHaltOrIllegalFetch :
    (start [0x08#8] []).phase = .p0 ∧ (∃ t, runToEnd 3 (start [0x08#8] []) = .halted t) ∧
    ∃ t b, runToEnd 2 (start [0x70#8] []) = .invalid t b :=
  ⟨by decide, ⟨_, rfl⟩, ⟨_, _, rfl⟩⟩

end Sys2Proof.Tests
end

section
/-! Facts about the step that the statements on whole runs need: what an execute phase leaves of IR and PHASE, which steps
fault, and what a step reports. -/

namespace Sys2Proof.Machine

/-- No execute phase writes IR or PHASE; PHASE moves by the advance after it (`41_phase_engine.md` R134, R135). -/
def PhaseEffects.KeepsIrPhase (e : PhaseEffects) : Prop :=
  ∀ s : State,
    ((e.p2 s).ir = s.ir ∧ (e.p2 s).phase = s.phase) ∧
    ((e.p3 s).ir = s.ir ∧ (e.p3 s).phase = s.phase) ∧
    ((e.p4 s).ir = s.ir ∧ (e.p4 s).phase = s.phase)

theorem idleEffects_keepsIrPhase : idleEffects.KeepsIrPhase := fun _ => by
  simp [idleEffects, noEffect]

theorem outputEffects_keepsIrPhase : outputEffects.KeepsIrPhase := fun _ => by
  simp [outputEffects, noEffect]

theorem inputEffects_keepsIrPhase : inputEffects.KeepsIrPhase := fun _ => by
  simp [inputEffects, noEffect]

theorem carryEffects_keepsIrPhase (c : Bool) : (carryEffects c).KeepsIrPhase := fun _ => by
  simp [carryEffects, noEffect]

theorem branchEffects_keepsIrPhase (c : Cond) : (branchEffects c).KeepsIrPhase := fun s => by
  cases h : condHolds c s.flags s.ibuf.ready s.obuf.ready <;> simp [branchEffects, noEffect, h]

theorem shiftEffects_keepsIrPhase (r : Reg) (m : ShiftMode) : (shiftEffects r m).KeepsIrPhase := fun _ => by
  simp [shiftEffects, noEffect]

theorem rotateEffects_keepsIrPhase (r : Reg) (m : ShiftMode) : (rotateEffects r m).KeepsIrPhase := fun _ => by
  simp [rotateEffects, noEffect]

theorem loadEffects_keepsIrPhase (r : Reg) (m : LoadMode) : (loadEffects r m).KeepsIrPhase := fun _ => by
  cases m <;> simp [loadEffects]

theorem storeEffects_keepsIrPhase (r : Reg) (m : StoreMode) : (storeEffects r m).KeepsIrPhase := fun _ => by
  cases m <;> simp [storeEffects]

theorem binaryEffects_keepsIrPhase (p : Params) (op : BinOp) (r : Reg) (m : LoadMode) :
    (binaryEffects p op r m).KeepsIrPhase := fun _ => by
  cases m <;> simp [binaryEffects]

/-- Every row of the table of `41_phase_engine.md` R139 leaves IR and PHASE alone. -/
theorem variantEffects_keepsIrPhase (p : Params) : (v : Variant) → (variantEffects p v).KeepsIrPhase
  | .nop | .hlt => idleEffects_keepsIrPhase
  | .out => outputEffects_keepsIrPhase
  | .inp => inputEffects_keepsIrPhase
  | .rcf => carryEffects_keepsIrPhase false
  | .scf => carryEffects_keepsIrPhase true
  | .b c => branchEffects_keepsIrPhase c
  | .sh r m => shiftEffects_keepsIrPhase r m
  | .rot r m => rotateEffects_keepsIrPhase r m
  | .ld r m => loadEffects_keepsIrPhase r m
  | .st r m => storeEffects_keepsIrPhase r m
  | .bin op r m => binaryEffects_keepsIrPhase p op r m

/-- A step that goes on advances the phase, whatever instruction it runs (`41_phase_engine.md` R135). -/
theorem step_next_phase {s t : State} (h : step s = .next t) : t.phase = nextPhase s.phase := by
  rcases step_next h with ⟨_, rfl⟩ | ⟨_, i, _, rfl⟩ | ⟨i, _, hexec⟩
  · rfl
  · rfl
  · obtain ⟨⟨_, hp2⟩, ⟨_, hp3⟩, ⟨_, hp4⟩⟩ := variantEffects_keepsIrPhase Params.standard i.variant s
    rcases hexec with ⟨_, rfl⟩ | ⟨_, rfl⟩ | ⟨_, rfl⟩
    · rw [State.advance_phase, hp2]
    · rw [State.advance_phase, hp3]
    · rw [State.advance_phase, hp4]

/-- Only p1 writes IR (`10_state.md` R27). -/
theorem step_next_ir {s t : State} (h : step s = .next t) (hp : s.phase ≠ .p1) : t.ir = s.ir := by
  rcases step_next h with ⟨_, rfl⟩ | ⟨hp1, _⟩ | ⟨i, _, hexec⟩
  · rfl
  · exact absurd hp1 hp
  · obtain ⟨⟨hp2, _⟩, ⟨hp3, _⟩, ⟨hp4, _⟩⟩ := variantEffects_keepsIrPhase Params.standard i.variant s
    rcases hexec with ⟨_, rfl⟩ | ⟨_, rfl⟩ | ⟨_, rfl⟩
    · rw [State.advance_ir, hp2]
    · rw [State.advance_ir, hp3]
    · rw [State.advance_ir, hp4]

/-- The decoder has one gap: class 7 with a mode below 4 (`30_encoding.md` R78). -/
theorem decodeVariant_eq_none {m : Nibble → Cond} {b : Byte} (h : decodeVariant m b = none) :
    (opcodeClass b).toNat = 7 ∧ storeField b = none := by
  unfold decodeVariant at h
  split at h
  case h_8 hclass => exact ⟨hclass, Option.map_eq_none_iff.mp h⟩
  all_goals cases h

/-- The gap of the decoder holds no byte but the eight of `30_encoding.md` R90. -/
theorem mem_illegalOpcodes_of_storeField_eq_none :
    ∀ b : Byte, (opcodeClass b).toNat = 7 → storeField b = none → b ∈ illegalOpcodes := by decide

/-- Under every branch map a byte that fails to decode is one of the eight illegal ones and is the byte carried. -/
theorem mem_illegalOpcodes_of_decodeWith_fail {m : Nibble → Cond} {b c : Byte} (h : decodeWith m b = .fail c) :
    c ∈ illegalOpcodes := by
  rw [decodeWith_fail h]
  unfold decodeWith at h
  split at h
  · cases h
  · next hnone =>
    obtain ⟨hclass, hmode⟩ := decodeVariant_eq_none hnone
    exact mem_illegalOpcodes_of_storeField_eq_none b hclass hmode

/-- Everything a step can do when it faults: it is a p1 whose byte does not decode (`60_exceptions.md` R250). -/
theorem step_fault {s : State} {f : Fault} (h : step s = .fault f) :
    s.phase = .p1 ∧ ∃ b, decode (s.byteAt .text s.mar) = .fail b ∧ f = .invalidInstruction b := by
  rcases phase_cases s.phase with hp | hp | hp | hp | hp <;> simp only [step, hp] at h
  · cases h
  · exact ⟨hp, phase1With_fault h⟩
  all_goals
    cases hi : s.ir with
    | none => rw [hi] at h; cases h
    | some i => simp [hi, exec_eq_variantEffects, performWith, hp] at h

/-- The phase the host reads after a decode failure at p1, under either setting of the unknown parameter
(`41_phase_engine.md` R136; log 5). -/
theorem stateAfterDecodeFault_phase {s : State} (hp : s.phase = .p1) :
    (stateAfterDecodeFault s).phase = .p1 ∨ (stateAfterDecodeFault s).phase = .p2 := by
  unfold stateAfterDecodeFault stateAfterDecodeFaultWith
  cases Params.standard.phaseAfterDecodeFault
  · exact .inl hp
  · exact .inr rfl

/-- Halt is the signal of the execute phases of HLT (`41_phase_engine.md` R138). -/
theorem signal_eq_halt_iff (s : State) : signal s = .halt ↔ isExecutePhase s.phase = true ∧ s.ir = some .hlt := by
  rcases phase_cases s.phase with hp | hp | hp | hp | hp <;> simp only [signal, hp, isExecutePhase]
  · simp
  · simp
  all_goals split <;> simp_all

/-- A report with a signal is that of a step that goes on. -/
theorem stepReport_signalled {s t : State} {g : Signal} (h : stepReport s = some (t, .signalled g)) :
    step s = .next t ∧ signal s = g := by
  unfold stepReport at h
  split at h
  · next hs => cases h; exact ⟨hs, rfl⟩
  · cases h
  · cases h

/-- A report of InvalidInstruction is that of a step that faults. -/
theorem stepReport_invalidInstruction {s t : State} {b : Byte}
    (h : stepReport s = some (t, .invalidInstruction b)) :
    step s = .fault (.invalidInstruction b) ∧ t = stateAfterDecodeFault s := by
  unfold stepReport at h
  split at h
  · cases h
  · next hs => cases h; exact ⟨hs, rfl⟩
  · cases h

end Sys2Proof.Machine
end

section
/-! Where a run ends (`00_scope.md` R13): the induction over the run, once, and the invariant of a run from p0. -/

namespace Sys2Proof.Machine

/-- A run that ends does so at a step from a state with every property that the steps reporting Continue keep. -/
theorem runToEnd_last_step {P : State → Prop}
    (hkeep : ∀ s t, P s → stepReport s = some (t, .signalled .cont) → P t) (n : Nat) (s : State) (hs : P s) :
    (∀ t, runToEnd n s = .halted t → ∃ u, P u ∧ stepReport u = some (t, .signalled .halt)) ∧
    (∀ t b, runToEnd n s = .invalid t b → ∃ u, P u ∧ stepReport u = some (t, .invalidInstruction b)) := by
  induction n generalizing s with
  | zero => simp [runToEnd]
  | succ n ih =>
    unfold runToEnd
    split
    · next hrep => exact ih _ (hkeep _ _ hs hrep)
    · next hrep => exact ⟨fun _ h => ⟨s, hs, by cases h; exact hrep⟩, by simp⟩
    · next hrep => exact ⟨by simp, fun _ _ h => ⟨s, hs, by cases h; exact hrep⟩⟩
    · simp

/-- The state is not past the first execute phase of a HLT: the invariant of a run that has not yet returned Halt. -/
def HaltNotPassed (s : State) : Prop := s.ir = some .hlt → s.phase ≠ .p3 ∧ s.phase ≠ .p4

/-- A step that reports Continue leads past no HLT, since p2 of HLT reports Halt. -/
theorem haltNotPassed_of_cont {s t : State} (hstep : step s = .next t) (hcont : signal s = .cont) :
    HaltNotPassed t := by
  intro hir
  have hnotHalt : ¬ (isExecutePhase s.phase = true ∧ s.ir = some .hlt) := by
    rw [← signal_eq_halt_iff, hcont]; decide
  rw [step_next_phase hstep]
  rcases phase_cases s.phase with hp | hp | hp | hp | hp
  · simp [hp, nextPhase]
  · simp [hp, nextPhase]
  all_goals
    have hirKept : t.ir = s.ir := step_next_ir hstep (by simp [hp])
    exact absurd ⟨by rw [hp]; rfl, hirKept ▸ hir⟩ hnotHalt

/-- A Halt on a run that has passed none comes from p2 of HLT. -/
theorem phase_p2_of_halt {s : State} (hs : HaltNotPassed s) (hhalt : signal s = .halt) :
    s.phase = .p2 ∧ s.ir = some .hlt := by
  obtain ⟨hexec, hir⟩ := (signal_eq_halt_iff s).mp hhalt
  obtain ⟨hp3, hp4⟩ := hs hir
  refine ⟨?_, hir⟩
  rcases phase_cases s.phase with hp | hp | hp | hp | hp
  · simp [hp, isExecutePhase] at hexec
  · simp [hp, isExecutePhase] at hexec
  · exact hp
  · exact absurd hp hp3
  · exact absurd hp hp4

/-- Settles O60: before its end a run from p0 keeps `HaltNotPassed`, so its last step is p2 of HLT or a p1 that faults. -/
theorem runEndsAtHaltOrIllegalFetch : Obligations.RunEndsAtHaltOrIllegalFetch := by
  intro n s t hp0
  have hstart : HaltNotPassed s := fun _ => by simp [hp0]
  have hkeep : ∀ u v, HaltNotPassed u → stepReport u = some (v, .signalled .cont) → HaltNotPassed v := by
    intro u v _ hrep
    obtain ⟨hstep, hcont⟩ := stepReport_signalled hrep
    exact haltNotPassed_of_cont hstep hcont
  obtain ⟨hhalted, hinvalid⟩ := runToEnd_last_step hkeep n s hstart
  constructor
  · intro hrun
    obtain ⟨u, hu, hrep⟩ := hhalted t hrun
    obtain ⟨hstep, hhalt⟩ := stepReport_signalled hrep
    obtain ⟨hp2, hir⟩ := phase_p2_of_halt hu hhalt
    constructor
    · rw [step_next_phase hstep, hp2]; rfl
    · rw [step_next_ir hstep (by simp [hp2]), hir]
  · intro b hrun
    obtain ⟨u, _, hrep⟩ := hinvalid t b hrun
    obtain ⟨hstep, rfl⟩ := stepReport_invalidInstruction hrep
    obtain ⟨hp1, c, hdecode, hbyte⟩ := step_fault hstep
    cases hbyte
    exact ⟨mem_illegalOpcodes_of_decodeWith_fail hdecode, stateAfterDecodeFault_phase hp1⟩

end Sys2Proof.Machine
end

section
/-! Everything an execute phase can do, said once for all 97 instructions: the statements on who writes which field of the
state (`10_state.md` R24 to R34) are each one case analysis of `ExecAction`. -/

namespace Sys2Proof.Machine

/-- The decoded variant determines the instruction. -/
theorem instr_eq_toInstr_of_variant_eq {i : Instr} {v : Variant} (h : i.variant = v) : i = v.toInstr := by
  subst h; cases i <;> rfl

theorem isDirect_eq_false_iff (m : LoadMode) : m.isDirect = false ↔ m ≠ .accd ∧ m ≠ .ixd := by
  cases m <;> simp [LoadMode.isDirect]

/-- The two-byte instructions: branches, stores, and loads and binary operations whose mode is not register-direct
(`30_encoding.md` R73). -/
theorem hasOperandByte_cases {v : Variant} (h : v.hasOperandByte = true) :
    (∃ c, v = .b c) ∨ (∃ r m, v = .st r m) ∨ (∃ r m, v = .ld r m ∧ m ≠ .accd ∧ m ≠ .ixd) ∨
      (∃ op r m, v = .bin op r m ∧ m ≠ .accd ∧ m ≠ .ixd) := by
  cases v with
  | b c => exact .inl ⟨c, rfl⟩
  | st r m => exact .inr (.inl ⟨r, m, rfl⟩)
  | ld r m =>
    have hm : m.isDirect = false := by simpa [Variant.hasOperandByte] using h
    exact .inr (.inr (.inl ⟨r, m, rfl, (isDirect_eq_false_iff m).mp hm⟩))
  | bin op r m =>
    have hm : m.isDirect = false := by simpa [Variant.hasOperandByte] using h
    exact .inr (.inr (.inr ⟨op, r, m, rfl, (isDirect_eq_false_iff m).mp hm⟩))
  | nop | hlt | out | inp | rcf | scf | sh r m | rot r m => cases h

theorem length_eq_two_of_hasOperandByte {i : Instr} (h : i.variant.hasOperandByte = true) : i.length = 2 := if_pos h

/-- The variants whose p3 resolves an absolute address (`44_load_store.md` R203). -/
def ResolvesAbsolute (v : Variant) : Prop :=
  (∃ r m, v = .st r m ∧ (m = .abst ∨ m = .absd)) ∨
    (∃ r m, (v = .ld r m ∨ ∃ op, v = .bin op r m) ∧ (m = .abst ∨ m = .absd))

/-- The variants whose p3 resolves an address relative to IX (`44_load_store.md` R203). -/
def ResolvesRelative (v : Variant) : Prop :=
  (∃ r m, v = .st r m ∧ (m = .relt ∨ m = .reld)) ∨
    (∃ r m, (v = .ld r m ∨ ∃ op, v = .bin op r m) ∧ (m = .relt ∨ m = .reld))

/-- The effect of an instruction in a phase; p0 and p1 have none of the instruction's own (`41_phase_engine.md` R134). -/
def PhaseEffects.during (e : PhaseEffects) : Phase → State → State
  | .p0 | .p1 => noEffect
  | .p2 => e.p2
  | .p3 => e.p3
  | .p4 => e.p4

/-- What an instruction of variant `v` may do in phase `ph` of state `s`, with the state it leaves (the table of
`41_phase_engine.md` R139, read by action instead of by instruction). -/
inductive ExecAction (p : Params) (s : State) (v : Variant) (ph : Phase) : State → Prop
  | idle : ExecAction p s v ph s
  | outputValue (hv : v = .out) (hph : ph = .p2) : ExecAction p s v ph { s with obuf := { s.obuf with value := s.acc } }
  | outputReady (hv : v = .out) (hph : ph = .p3) : ExecAction p s v ph { s with obuf := { s.obuf with ready := true } }
  | inputValue (hv : v = .inp) (hph : ph = .p2) : ExecAction p s v ph { s with acc := s.ibuf.value }
  | inputTaken (hv : v = .inp) (hph : ph = .p3) : ExecAction p s v ph { s with ibuf := { s.ibuf with ready := false } }
  | carrySet (c : Bool) (hv : v = .rcf ∨ v = .scf) (hph : ph = .p2) :
      ExecAction p s v ph { s with flags := { s.flags with cf := c } }
  | operandFetch (hv : v.hasOperandByte = true) (hph : ph = .p2) : ExecAction p s v ph s.fetchAddress
  | branchTaken (c : Cond) (hv : v = .b c) (hph : ph = .p3)
      (hcond : condHolds c s.flags s.ibuf.ready s.obuf.ready = true) :
      ExecAction p s v ph { s with pc := s.byteAt .text s.mar }
  | shifted (r : Reg) (m : ShiftMode) (x : Byte × Bool) (hv : v = .sh r m ∨ v = .rot r m) (hph : ph = .p2) :
      ExecAction p s v ph (takeShifted r x s)
  | shiftFlagsSettled (r : Reg) (m : ShiftMode) (hv : v = .sh r m ∨ v = .rot r m) (hph : ph = .p3) :
      ExecAction p s v ph (settleShiftFlags r s)
  | absoluteResolved (hv : ResolvesAbsolute v) (hph : ph = .p3) : ExecAction p s v ph (resolveAbsolute s)
  | relativeResolved (hv : ResolvesRelative v) (hph : ph = .p3) : ExecAction p s v ph (resolveRelative s)
  | loaded (r : Reg) (m : LoadMode) (x : Byte) (hv : v = .ld r m) (hph : ph = computePhase m) :
      ExecAction p s v ph (s.setReg r x)
  | stored (r : Reg) (m : StoreMode) (hv : v = .st r m) (hph : ph = .p4) :
      ExecAction p s v ph (s.storeByte (storeSegment m) s.mar (s.reg r))
  | computed (op : BinOp) (r : Reg) (m : LoadMode) (x : Byte) (hv : v = .bin op r m) (hph : ph = computePhase m) :
      ExecAction p s v ph (computeInto p op r x s)

section
variable (p : Params) (s : State) (ph : Phase)

theorem branch_action (c : Cond) : ExecAction p s (.b c) ph ((branchEffects c).during ph s) := by
  cases ph with
  | p2 => exact .operandFetch rfl rfl
  | p3 =>
    simp only [PhaseEffects.during, branchEffects]
    split
    · next hcond => exact .branchTaken c rfl rfl hcond
    · exact .idle
  | p0 | p1 | p4 => exact .idle

theorem load_action (r : Reg) (m : LoadMode) : ExecAction p s (.ld r m) ph ((loadEffects r m).during ph s) := by
  cases ph with
  | p0 | p1 => exact .idle
  | p2 =>
    cases m with
    | accd | ixd => exact .loaded r _ _ rfl rfl
    | imm | abst | absd | relt | reld => exact .operandFetch rfl rfl
  | p3 =>
    cases m with
    | accd | ixd => exact .idle
    | imm => exact .loaded r _ _ rfl rfl
    | abst | absd => exact .absoluteResolved (.inr ⟨r, _, .inl rfl, by simp⟩) rfl
    | relt | reld => exact .relativeResolved (.inr ⟨r, _, .inl rfl, by simp⟩) rfl
  | p4 =>
    cases m with
    | accd | ixd | imm => exact .idle
    | abst | absd | relt | reld => exact .loaded r _ _ rfl rfl

theorem store_action (r : Reg) (m : StoreMode) : ExecAction p s (.st r m) ph ((storeEffects r m).during ph s) := by
  cases ph with
  | p0 | p1 => exact .idle
  | p2 => exact .operandFetch rfl rfl
  | p3 =>
    cases m with
    | abst | absd => exact .absoluteResolved (.inl ⟨r, _, rfl, by simp⟩) rfl
    | relt | reld => exact .relativeResolved (.inl ⟨r, _, rfl, by simp⟩) rfl
  | p4 => cases m <;> exact .stored r _ rfl rfl

theorem binary_action (op : BinOp) (r : Reg) (m : LoadMode) :
    ExecAction p s (.bin op r m) ph ((binaryEffects p op r m).during ph s) := by
  cases ph with
  | p0 | p1 => exact .idle
  | p2 =>
    cases m with
    | accd | ixd => exact .computed op r _ _ rfl rfl
    | imm | abst | absd | relt | reld => exact .operandFetch rfl rfl
  | p3 =>
    cases m with
    | accd | ixd => exact .idle
    | imm => exact .computed op r _ _ rfl rfl
    | abst | absd => exact .absoluteResolved (.inr ⟨r, _, .inr ⟨op, rfl⟩, by simp⟩) rfl
    | relt | reld => exact .relativeResolved (.inr ⟨r, _, .inr ⟨op, rfl⟩, by simp⟩) rfl
  | p4 =>
    cases m with
    | accd | ixd | imm => exact .idle
    | abst | absd | relt | reld => exact .computed op r _ _ rfl rfl

/-- Every row of the table of `41_phase_engine.md` R139 does one of the listed actions in each phase. -/
theorem variantEffects_action (v : Variant) : ExecAction p s v ph ((variantEffects p v).during ph s) := by
  cases v with
  | nop | hlt => cases ph <;> exact .idle
  | out =>
    cases ph with
    | p2 => exact .outputValue rfl rfl
    | p3 => exact .outputReady rfl rfl
    | p0 | p1 | p4 => exact .idle
  | inp =>
    cases ph with
    | p2 => exact .inputValue rfl rfl
    | p3 => exact .inputTaken rfl rfl
    | p0 | p1 | p4 => exact .idle
  | rcf | scf =>
    cases ph with
    | p2 => exact .carrySet _ (by simp) rfl
    | p0 | p1 | p3 | p4 => exact .idle
  | b c => exact branch_action p s ph c
  | sh r m | rot r m =>
    cases ph with
    | p2 => exact .shifted r m _ (by simp) rfl
    | p3 => exact .shiftFlagsSettled r m (by simp) rfl
    | p0 | p1 | p4 => exact .idle
  | ld r m => exact load_action p s ph r m
  | st r m => exact store_action p s ph r m
  | bin op r m => exact binary_action p s ph op r m

end

/-- Everything a step can do when it goes on, with the execute phases read by action. -/
theorem step_next_action {s t : State} (h : step s = .next t) :
    (s.phase = .p0 ∧ t = s.fetchAddress.advance) ∨
    (s.phase = .p1 ∧ ∃ i, t = { s with ir := some i }.advance) ∨
    (∃ i u, s.ir = some i ∧ ExecAction Params.standard s i.variant s.phase u ∧ t = u.advance) := by
  rcases step_next h with hp0 | ⟨hp1, i, _, ht⟩ | ⟨i, hir, hexec⟩
  · exact .inl hp0
  · exact .inr (.inl ⟨hp1, i, ht⟩)
  · have haction := variantEffects_action Params.standard s s.phase i.variant
    rcases hexec with ⟨hp, ht⟩ | ⟨hp, ht⟩ | ⟨hp, ht⟩ <;>
      exact .inr (.inr ⟨i, _, hir, haction, by rw [ht, hp]; rfl⟩)

/-- A step that changes what neither p0, p1 nor the phase advance writes is an execute phase of the instruction in IR. -/
theorem exec_action_of_changed {α : Type} (f : State → α) (hfetch : ∀ u, f u.fetchAddress = f u)
    (hdecode : ∀ u i, f { u with ir := i } = f u) (hadvance : ∀ u, f u.advance = f u) {s t : State}
    (h : step s = .next t) (hne : f t ≠ f s) :
    ∃ i u, s.ir = some i ∧ ExecAction Params.standard s i.variant s.phase u ∧ t = u.advance := by
  rcases step_next_action h with ⟨_, rfl⟩ | ⟨_, i, rfl⟩ | hexec
  · exact absurd ((hadvance _).trans (hfetch s)) hne
  · exact absurd ((hadvance _).trans (hdecode s _)) hne
  · exact hexec

/-- The logic operations and CMP leave the carry (`40_alu.md` R108, R110). -/
theorem compute_keeps_carry (wd : AluWiden) {op : BinOp} (b o : Byte) (f : Flags)
    (h : op = .eor ∨ op = .or ∨ op = .and ∨ op = .cmp) : (compute wd op b o f).2.cf = f.cf := by
  rcases h with rfl | rfl | rfl | rfl <;> rfl

end Sys2Proof.Machine
end

section
/-! Who writes which field of the state (`10_state.md` R24 to R34). In each proof the actions that do not write the field
are closed by the hypothesis that it changed. -/

namespace Sys2Proof.Machine

/-- Settles O23: only the opcode and operand fetches and the taken branch write PC. -/
theorem programCounterChangesInThreeWays : Obligations.ProgramCounterChangesInThreeWays := by
  intro s t h hne
  rcases step_next_action h with ⟨hp, rfl⟩ | ⟨_, i, rfl⟩ | ⟨i, u, hir, haction, rfl⟩
  · exact .inl ⟨hp, rfl, rfl⟩
  · exact absurd rfl hne
  cases haction with
  | operandFetch hv hp => exact .inr (.inl ⟨hp, rfl, rfl, i, hir, hasOperandByte_cases hv⟩)
  | branchTaken c hv hp hcond =>
    exact .inr (.inr ⟨hp, rfl, c, hir.trans (congrArg some (instr_eq_toInstr_of_variant_eq hv)), hcond⟩)
  | _ => simp at hne

/-- Settles O24: only the two fetches and address resolution write MAR, and only p1 writes IR. -/
theorem addressAndInstructionRegisterWriters : Obligations.AddressAndInstructionRegisterWriters := by
  refine fun s t h => ⟨fun hne => ?_, fun hne => by_contra fun hp => hne (step_next_ir h hp)⟩
  rcases step_next_action h with ⟨hp, rfl⟩ | ⟨_, i, rfl⟩ | ⟨i, u, hir, haction, rfl⟩
  · exact .inl ⟨hp, rfl⟩
  · exact absurd rfl hne
  cases haction with
  | operandFetch hv hp => exact .inr (.inl ⟨hp, rfl, i, hir, length_eq_two_of_hasOperandByte hv⟩)
  | absoluteResolved hv hp => exact .inr (.inr ⟨hp, i, _, hir, rfl, .inl ⟨rfl, hv⟩⟩)
  | relativeResolved hv hp => exact .inr (.inr ⟨hp, i, _, hir, rfl, .inr ⟨rfl, hv⟩⟩)
  | _ => simp at hne

/-- Settles O25: the actions that write flags are those of RCF and SCF, shifts and rotates, and binary operations. -/
theorem flagWriters : Obligations.FlagWriters := by
  intro s t h hne
  obtain ⟨i, u, hir, haction, rfl⟩ :=
    exec_action_of_changed State.flags (fun _ => rfl) (fun _ _ => rfl) (fun _ => rfl) h hne
  refine ⟨i, hir, ?_⟩
  cases haction with
  | carrySet c hv hp =>
    exact .inl ⟨hp, hv.imp instr_eq_toInstr_of_variant_eq instr_eq_toInstr_of_variant_eq, rfl⟩
  | shifted r m x hv hp => exact .inr (.inl ⟨r, m, hv, .inl ⟨hp, rfl⟩⟩)
  | shiftFlagsSettled r m hv hp => exact .inr (.inl ⟨r, m, hv, .inr ⟨hp, rfl, rfl⟩⟩)
  | computed op r m x hv hp => exact .inr (.inr ⟨op, r, m, hv, hp, compute_keeps_carry _ _ _ _⟩)
  | _ => simp at hne

/-- A register read sees ACC and IX only. -/
theorem State.reg_congr {s t : State} (q : Reg) (hacc : t.acc = s.acc) (hix : t.ix = s.ix) : t.reg q = s.reg q := by
  cases q
  · exact hacc
  · exact hix

/-- The register a shift or rotate leaves. -/
theorem takeShifted_reg_other {r q : Reg} (x : Byte × Bool) (s : State) (h : q ≠ r) :
    (takeShifted r x s).reg q = s.reg q :=
  (State.reg_congr q rfl rfl).trans (s.reg_setReg_other x.1 h)

/-- Settles O26: a general register is written by IN and as the destination of a load, shift, rotate or binary operation. -/
theorem generalRegisterWriters : Obligations.GeneralRegisterWriters := by
  intro s t q h hne
  obtain ⟨i, u, hir, haction, rfl⟩ := exec_action_of_changed (fun u => u.reg q) (fun u => u.fetchAddress_reg q)
    (fun _ _ => State.reg_congr q rfl rfl) (fun u => u.advance_reg q) h hne
  rw [State.advance_reg] at hne
  refine ⟨i, hir, ?_⟩
  cases haction with
  | inputValue hv hp =>
    cases q with
    | acc => exact .inl ⟨instr_eq_toInstr_of_variant_eq hv, rfl, hp⟩
    | ix => exact absurd rfl hne
  | loaded r m x hv hp =>
    obtain rfl : q = r := by_contra fun hq => hne (s.reg_setReg_other x hq)
    exact .inr (.inl ⟨m, hv, hp⟩)
  | shifted r m x hv hp =>
    obtain rfl : q = r := by_contra fun hq => hne (takeShifted_reg_other x s hq)
    exact .inr (.inr (.inl ⟨m, hv, hp⟩))
  | computed op r m x hv hp =>
    obtain rfl : q = r := by_contra fun hq => hne (computeInto_reg_other _ op x s hq)
    exact .inr (.inr (.inr ⟨op, m, hv, hp⟩))
  | _ => exact absurd (State.reg_congr q rfl rfl) hne

/-- Every action but the four of OUT and IN leaves both buffers, and those write one component each. -/
theorem ExecAction.buffers {p : Params} {s u : State} {v : Variant} {ph : Phase} (h : ExecAction p s v ph u) :
    u.ibuf = s.ibuf ∧ u.obuf = s.obuf ∨
    (v = .inp ∧ ph = .p3 ∧ u.ibuf = { s.ibuf with ready := false } ∧ u.obuf = s.obuf) ∨
    (v = .out ∧ ph = .p2 ∧ u.ibuf = s.ibuf ∧ u.obuf = { s.obuf with value := s.acc }) ∨
    (v = .out ∧ ph = .p3 ∧ u.ibuf = s.ibuf ∧ u.obuf = { s.obuf with ready := true }) := by
  cases h with
  | inputTaken hv hp => exact .inr (.inl ⟨hv, hp, rfl, rfl⟩)
  | outputValue hv hp => exact .inr (.inr (.inl ⟨hv, hp, rfl, rfl⟩))
  | outputReady hv hp => exact .inr (.inr (.inr ⟨hv, hp, rfl, rfl⟩))
  | _ => exact .inl (by simp)

/-- Settles O27: the fetches write no buffer, and the execute phases only as `ExecAction.buffers` says. -/
theorem bufferWriters : Obligations.BufferWriters := by
  intro s t h
  rcases step_next_action h with ⟨_, rfl⟩ | ⟨_, i, rfl⟩ | ⟨i, u, hir, haction, rfl⟩
  · simp
  · simp
  rcases haction.buffers with ⟨hi, ho⟩ | ⟨hv, hp, hi, ho⟩ | ⟨hv, hp, hi, ho⟩ | ⟨hv, hp, hi, ho⟩
  · simp [hi, ho]
  all_goals
    obtain rfl := instr_eq_toInstr_of_variant_eq hv
    simp [hi, ho, hp, hir, Variant.toInstr]

/-- Settles O29, by the read-after-write laws of the register selector. -/
theorem registerSelector : Obligations.RegisterSelector := by
  intro s r v
  refine ⟨rfl, rfl, s.reg_setReg_same r v, fun q hq => s.reg_setReg_other v hq, ?_⟩
  cases r with
  | acc => rfl
  | ix => rfl

end Sys2Proof.Machine
end

section
/-! The canonical form of memory holds nothing but its 512 bytes (`10_state.md` R32, `20_memory.md` R50, R52), and the
reset state (`10_state.md` R38). -/

namespace Sys2Proof.Machine

theorem Memory.wfFrom_cons_iff (lo a : Nat) (v : Byte) (m : Memory) :
    Memory.wfFrom lo ((a, v) :: m) = true ↔
      lo ≤ a ∧ a < Memory.size ∧ v ≠ Memory.unlisted ∧ Memory.wfFrom (a + 1) m = true := by
  simp [Memory.wfFrom, and_assoc]

/-- Below its first listed address a canonical memory reads as unlisted. -/
theorem Memory.read_eq_unlisted_of_lt {m : Memory} {lo q : Nat} (h : Memory.wfFrom lo m = true) (hq : q < lo) :
    Memory.read m q = Memory.unlisted := by
  induction m generalizing lo with
  | nil => rfl
  | cons c m ih =>
    obtain ⟨a, v⟩ := c
    obtain ⟨hlo, _, _, hm⟩ := (Memory.wfFrom_cons_iff lo a v m).mp h
    rw [Memory.read_cons, if_neg (by omega)]
    exact ih hm (by omega)

/-- The byte at the first listed address of a canonical memory is listed, so a memory that reads the same there lists
something at or below it. -/
theorem Memory.not_wfFrom_succ_of_read_eq {a : Nat} {v : Byte} {m m' : Memory} (hv : v ≠ Memory.unlisted)
    (h : Memory.read ((a, v) :: m) a = Memory.read m' a) : Memory.wfFrom (a + 1) m' ≠ true := by
  intro hm'
  rw [Memory.read_cons, if_pos rfl, Memory.read_eq_unlisted_of_lt hm' (Nat.lt_succ_self a)] at h
  exact hv h

/-- Canonical memories with equal bytes at all 512 addresses are the same list. -/
theorem Memory.eq_of_read_eq {m m' : Memory} {lo : Nat} (h : Memory.wfFrom lo m = true)
    (h' : Memory.wfFrom lo m' = true) (hread : ∀ q, q < Memory.size → Memory.read m q = Memory.read m' q) : m = m' := by
  induction m generalizing lo m' with
  | nil =>
    cases m' with
    | nil => rfl
    | cons c' m' =>
      obtain ⟨b, w⟩ := c'
      obtain ⟨_, hb, hw, _⟩ := (Memory.wfFrom_cons_iff lo b w m').mp h'
      exact absurd rfl (Memory.not_wfFrom_succ_of_read_eq hw (hread b hb).symm)
  | cons c m ih =>
    obtain ⟨a, v⟩ := c
    obtain ⟨hlo, ha, hv, hm⟩ := (Memory.wfFrom_cons_iff lo a v m).mp h
    cases m' with
    | nil => exact absurd rfl (Memory.not_wfFrom_succ_of_read_eq hv (hread a ha))
    | cons c' m' =>
      obtain ⟨b, w⟩ := c'
      obtain ⟨hlo', hb, hw, hm'⟩ := (Memory.wfFrom_cons_iff lo b w m').mp h'
      obtain hab | rfl | hba := Nat.lt_trichotomy a b
      · exact absurd ((Memory.wfFrom_cons_iff _ b w m').mpr ⟨hab, hb, hw, hm'⟩)
          (Memory.not_wfFrom_succ_of_read_eq hv (hread a ha))
      · have hvw : v = w := by simpa [Memory.read_cons] using hread a ha
        have htail : m = m' := ih hm hm' fun q hq => by
          by_cases haq : a = q
          · subst haq
            rw [Memory.read_eq_unlisted_of_lt hm (Nat.lt_succ_self a),
              Memory.read_eq_unlisted_of_lt hm' (Nat.lt_succ_self a)]
          · simpa [Memory.read_cons, haq] using hread q hq
        rw [hvw, htail]
      · exact absurd ((Memory.wfFrom_cons_iff _ a v m).mpr ⟨hba, ha, hv, hm⟩)
          (Memory.not_wfFrom_succ_of_read_eq hw (hread b hb).symm)

/-- The two segments cover memory. -/
theorem exists_physical_eq {q : Nat} (h : q < Memory.size) : ∃ g a, physical g a = q := by
  simp only [Memory.size] at h
  by_cases hq : q < 256
  · exact ⟨.text, BitVec.ofNat 8 q, by simp [physical, segmentBase, u8]; omega⟩
  · exact ⟨.data, BitVec.ofNat 8 (q - 256), by simp [physical, segmentBase, u8]; omega⟩

/-- Settles O59: the bytes of the two segments are all the bytes there are, and they determine the list. -/
theorem equalReadsEqualMemory : Obligations.EqualReadsEqualMemory := by
  intro m m' h h' hread
  refine Memory.eq_of_read_eq h h' fun q hq => ?_
  obtain ⟨g, a, rfl⟩ := exists_physical_eq hq
  exact hread g a

/-- Settles O18: the reset memory is canonical, and p0 reads no instruction. -/
theorem invariantAtReset : Obligations.InvariantAtReset :=
  ⟨reset_mem_wf, fun hexec => by cases hexec⟩

/-- Every byte of the reset memory is the zero padding. -/
theorem reset_byteAt (g : Segment) (a : Byte) : State.reset.byteAt g a = 0x00#8 := rfl

/-- Settles O20: the values `State.reset` is defined with, and its empty memory read as the zero padding. -/
theorem resetStateValues : Obligations.ResetStateValues :=
  ⟨rfl, rfl, rfl, rfl, rfl, rfl, rfl, rfl, reset_byteAt⟩

end Sys2Proof.Machine
end

section
/-! How a step uses memory (`20_memory.md` R50 to R64): the step run forward from each phase, which byte a store writes,
and what a store in one phase means for the fetch after it. -/

namespace Sys2Proof.Machine

/-- Phase p0 run forward (`41_phase_engine.md` R132). -/
theorem step_of_p0 {s : State} (hp : s.phase = .p0) : step s = .next s.fetchAddress.advance := by
  simp only [step, hp, phase0]

/-- Phase p1 run forward where the byte at MAR decodes (`41_phase_engine.md` R133). -/
theorem step_of_p1 {s : State} {i : Instr} (hp : s.phase = .p1) (hd : decode (s.byteAt .text s.mar) = .instr i) :
    step s = .next { s with ir := some i }.advance := by
  have hstd : decodeWith Params.standard.bcondMap (s.byteAt .text s.mar) = .instr i := hd
  simp only [step, hp, phase1, phase1With, hstd]

/-- An execute phase run forward: the instruction's effect in that phase, then the advance (`41_phase_engine.md` R134). -/
theorem step_of_exec {s : State} {i : Instr} (hp : isExecutePhase s.phase = true) (hir : s.ir = some i) :
    step s = .next ((variantEffects Params.standard i.variant).during s.phase s).advance := by
  rcases phase_cases s.phase with h | h | h | h | h
  · simp [h, isExecutePhase] at hp
  · simp [h, isExecutePhase] at hp
  all_goals simp only [step, h, hir, exec_eq_variantEffects, performWith, PhaseEffects.during]

/-- Everything a step can do when it goes on, with the execute phases as one case. -/
theorem step_next_during {s t : State} (h : step s = .next t) :
    (s.phase = .p0 ∧ t = s.fetchAddress.advance) ∨
    (s.phase = .p1 ∧ ∃ i, decode (s.byteAt .text s.mar) = .instr i ∧ t = { s with ir := some i }.advance) ∨
    (isExecutePhase s.phase = true ∧ ∃ i, s.ir = some i ∧
      t = ((variantEffects Params.standard i.variant).during s.phase s).advance) := by
  rcases step_next h with hp0 | hp1 | ⟨i, hir, ⟨hp, ht⟩ | ⟨hp, ht⟩ | ⟨hp, ht⟩⟩
  · exact .inl hp0
  · exact .inr (.inl hp1)
  all_goals exact .inr (.inr ⟨by rw [hp]; rfl, i, hir, by rw [ht, hp]; rfl⟩)

/-- p4 of a store writes the register to the byte at MAR in the segment the mode names (`44_load_store.md` R205). -/
theorem storeEffects_p4 (r : Reg) (m : StoreMode) (s : State) :
    (storeEffects r m).p4 s = s.storeByte (storeSegment m) s.mar (s.reg r) := by
  cases m <;> rfl

/-- A byte read sees MEM only. -/
theorem State.byteAt_congr {s t : State} (g : Segment) (a : Byte) (hmem : t.mem = s.mem) : t.byteAt g a = s.byteAt g a :=
  congrArg (Memory.read · (physical g a)) hmem

/-- The four storing instructions with the segment each names (`44_load_store.md` R205). -/
theorem store_instr_segment {i : Instr} {r : Reg} {m : StoreMode} (h : i.variant = .st r m) :
    i = .stAbst r ∧ storeSegment m = .text ∨ i = .stRelt r ∧ storeSegment m = .text ∨
      i = .stAbsd r ∧ storeSegment m = .data ∨ i = .stReld r ∧ storeSegment m = .data := by
  obtain rfl := instr_eq_toInstr_of_variant_eq h
  cases m <;> simp [Variant.toInstr, StoreMode.storeInstr, storeSegment]

/-- Settles O22: of the actions of a step only the store writes MEM, and a store changes only the byte it addresses. -/
theorem memoryWrittenOnlyByStores : Obligations.MemoryWrittenOnlyByStores := by
  intro s t hwf h g a hne
  obtain ⟨i, u, hir, haction, rfl⟩ := exec_action_of_changed (fun u => u.byteAt g a) (fun _ => rfl) (fun _ _ => rfl)
    (fun _ => rfl) h hne
  rw [State.advance_byteAt] at hne ⊢
  cases haction with
  | stored r m hv hp =>
    obtain ⟨rfl, rfl⟩ : g = storeSegment m ∧ a = s.mar := by_contra fun hplace =>
      hne (s.byteAt_storeByte_other _ hplace)
    exact ⟨hp, rfl, r, by simpa only [hir, Option.some.injEq] using store_instr_segment hv,
      State.byteAt_storeByte_same _ _ _ hwf⟩
  | _ => exact absurd (State.byteAt_congr g a (by simp)) hne

/-- The two fetch phases from p0 where the byte at PC decodes (`41_phase_engine.md` R132, R133). -/
theorem stepTimes_two_fetch {s : State} {i : Instr} (hp : s.phase = .p0) (hd : decode (s.byteAt .text s.pc) = .instr i) :
    stepTimes 2 s = .next { s.fetchAddress with ir := some i, phase := .p2 } := by
  have hp1 : s.fetchAddress.advance.phase = .p1 := by simp [hp, nextPhase]
  have hdecode : decode (s.fetchAddress.advance.byteAt .text s.fetchAddress.advance.mar) = .instr i := hd
  simp only [stepTimes, step_of_p0 hp, step_of_p1 hp1 hdecode]
  simp [State.advance, hp, nextPhase]

/-- p4 of a text store run forward (`44_load_store.md` R205). -/
theorem step_of_textStore {s : State} {r : Reg} (hp : s.phase = .p4)
    (hir : s.ir = some (.stAbst r) ∨ s.ir = some (.stRelt r)) :
    step s = .next (s.storeByte .text s.mar (s.reg r)).advance := by
  rcases hir with hir | hir <;> rw [step_of_exec (by rw [hp]; rfl) hir, hp] <;> rfl

/-- Settles O58: p4 stores the byte at MAR, which is PC, and the two fetch phases read it back from PC. -/
theorem storeToTextIsFetchedNext : Obligations.StoreToTextIsFetchedNext := by
  intro s r j hwf hp hir hmar hdecode
  have hp0 : (s.storeByte .text s.mar (s.reg r)).advance.phase = .p0 := by simp [hp, nextPhase]
  have hfetched : (s.storeByte .text s.mar (s.reg r)).advance.byteAt .text s.pc = s.reg r := by
    rw [State.advance_byteAt, ← hmar]
    exact State.byteAt_storeByte_same _ _ _ hwf
  have hrun : stepTimes 3 s = stepTimes 2 (s.storeByte .text s.mar (s.reg r)).advance := by
    rw [stepTimes, step_of_textStore hp hir]
  have hfetch := stepTimes_two_fetch hp0 (hfetched.symm ▸ hdecode)
  exact ⟨_, hrun.trans hfetch, rfl, rfl, rfl, rfl⟩

end Sys2Proof.Machine
end

section
/-! Two runs that differ in the data segment (`20_memory.md` R51): an execute phase commutes with replacing MEM by a memory
whose text segment reads the same, the loads in a data mode and the stores at p4 excepted. -/

namespace Sys2Proof.Machine

/-- The other run's state: the same but for MEM. -/
def State.withMem (s : State) (m : Memory) : State := { s with mem := m }

@[simp] theorem State.withMem_acc (s : State) (m : Memory) : (s.withMem m).acc = s.acc := rfl
@[simp] theorem State.withMem_ix (s : State) (m : Memory) : (s.withMem m).ix = s.ix := rfl
@[simp] theorem State.withMem_mar (s : State) (m : Memory) : (s.withMem m).mar = s.mar := rfl
@[simp] theorem State.withMem_ir (s : State) (m : Memory) : (s.withMem m).ir = s.ir := rfl
@[simp] theorem State.withMem_flags (s : State) (m : Memory) : (s.withMem m).flags = s.flags := rfl
@[simp] theorem State.withMem_phase (s : State) (m : Memory) : (s.withMem m).phase = s.phase := rfl
@[simp] theorem State.withMem_mem (s : State) (m : Memory) : (s.withMem m).mem = m := rfl
@[simp] theorem State.withMem_obuf (s : State) (m : Memory) : (s.withMem m).obuf = s.obuf := rfl
@[simp] theorem State.withMem_ibuf (s : State) (m : Memory) : (s.withMem m).ibuf = s.ibuf := rfl
@[simp] theorem State.withMem_reg (s : State) (m : Memory) (r : Reg) : (s.withMem m).reg r = s.reg r :=
  State.reg_congr r rfl rfl

/-! The operations that take their operand bytes as arguments do not see MEM. -/

@[simp] theorem State.withMem_fetchAddress (s : State) (m : Memory) :
    (s.withMem m).fetchAddress = s.fetchAddress.withMem m := rfl
@[simp] theorem State.withMem_setReg (s : State) (m : Memory) (r : Reg) (v : Byte) :
    (s.withMem m).setReg r v = (s.setReg r v).withMem m := by cases r <;> rfl
@[simp] theorem takeShifted_withMem (s : State) (m : Memory) (r : Reg) (x : Byte × Bool) :
    takeShifted r x (s.withMem m) = (takeShifted r x s).withMem m := by cases r <;> rfl
@[simp] theorem settleShiftFlags_withMem (s : State) (m : Memory) (r : Reg) :
    settleShiftFlags r (s.withMem m) = (settleShiftFlags r s).withMem m := by cases r <;> rfl
@[simp] theorem computeInto_withMem (p : Params) (op : BinOp) (r : Reg) (x : Byte) (s : State) (m : Memory) :
    computeInto p op r x (s.withMem m) = (computeInto p op r x s).withMem m := by cases r <;> rfl

/-- The text segment reads the same in the memory as in the state. -/
def SameText (m : Memory) (s : State) : Prop := ∀ a : Byte, (s.withMem m).byteAt .text a = s.byteAt .text a

/-- The effect of phase `ph` depends on no byte of the data segment and writes none of MEM: it commutes with replacing MEM
by one whose text segment reads the same. -/
def PhaseEffects.SeesTextOnly (e : PhaseEffects) (ph : Phase) : Prop :=
  ∀ (s : State) (m : Memory), SameText m s → e.during ph (s.withMem m) = (e.during ph s).withMem m

/-- An effect that sees the text segment only writes no memory: with the state's own MEM the two runs are one. -/
theorem PhaseEffects.SeesTextOnly.mem_eq {e : PhaseEffects} {ph : Phase} (h : e.SeesTextOnly ph) (s : State) :
    (e.during ph s).mem = s.mem := by
  have hself : e.during ph s = (e.during ph s).withMem s.mem := h s s.mem fun _ => rfl
  rw [hself, State.withMem_mem]

theorem resolveAbsolute_withMem {s : State} {m : Memory} (h : SameText m s) :
    resolveAbsolute (s.withMem m) = (resolveAbsolute s).withMem m := by
  simp only [resolveAbsolute, State.withMem_mar, h s.mar]; rfl

theorem resolveRelative_withMem {s : State} {m : Memory} (h : SameText m s) :
    resolveRelative (s.withMem m) = (resolveRelative s).withMem m := by
  simp only [resolveRelative, State.withMem_mar, State.withMem_ix, h s.mar]; rfl

theorem idleEffects_seesTextOnly (ph : Phase) : idleEffects.SeesTextOnly ph := fun _ _ _ => by cases ph <;> rfl

theorem outputEffects_seesTextOnly (ph : Phase) : outputEffects.SeesTextOnly ph := fun _ _ _ => by cases ph <;> rfl

theorem inputEffects_seesTextOnly (ph : Phase) : inputEffects.SeesTextOnly ph := fun _ _ _ => by cases ph <;> rfl

theorem carryEffects_seesTextOnly (c : Bool) (ph : Phase) : (carryEffects c).SeesTextOnly ph := fun _ _ _ => by
  cases ph <;> rfl

theorem branchEffects_seesTextOnly (c : Cond) (ph : Phase) : (branchEffects c).SeesTextOnly ph := by
  intro s m h
  cases ph with
  | p3 =>
    simp only [PhaseEffects.during, branchEffects, State.withMem_flags, State.withMem_ibuf, State.withMem_obuf,
      State.withMem_mar, h s.mar]
    split <;> rfl
  | p0 | p1 | p2 | p4 => rfl

theorem shiftEffects_seesTextOnly (r : Reg) (sm : ShiftMode) (ph : Phase) : (shiftEffects r sm).SeesTextOnly ph := by
  intro s m _
  cases ph with
  | p2 | p3 => simp [PhaseEffects.during, shiftEffects]
  | p0 | p1 | p4 => rfl

theorem rotateEffects_seesTextOnly (r : Reg) (sm : ShiftMode) (ph : Phase) : (rotateEffects r sm).SeesTextOnly ph := by
  intro s m _
  cases ph with
  | p2 | p3 => simp [PhaseEffects.during, rotateEffects]
  | p0 | p1 | p4 => rfl

/-- A load sees the data segment at p4 of its two data modes only (`44_load_store.md` R201). -/
theorem loadEffects_seesTextOnly (r : Reg) (lm : LoadMode) (ph : Phase)
    (hdata : ¬ (ph = .p4 ∧ (lm = .absd ∨ lm = .reld))) : (loadEffects r lm).SeesTextOnly ph := by
  intro s m h
  cases ph with
  | p0 | p1 => rfl
  | p2 => cases lm <;> simp [PhaseEffects.during, loadEffects]
  | p3 =>
    cases lm with
    | accd | ixd => rfl
    | imm => simp [PhaseEffects.during, loadEffects, h s.mar]
    | abst | absd => exact resolveAbsolute_withMem h
    | relt | reld => exact resolveRelative_withMem h
  | p4 =>
    cases lm with
    | accd | ixd | imm => rfl
    | abst | relt => simp [PhaseEffects.during, loadEffects, h s.mar]
    | absd | reld => exact absurd ⟨rfl, by simp⟩ hdata

/-- Before p4 a store only fetches its operand byte and resolves its address (`44_load_store.md` R205). -/
theorem storeEffects_seesTextOnly (r : Reg) (sm : StoreMode) {ph : Phase} (hp4 : ph ≠ .p4) :
    (storeEffects r sm).SeesTextOnly ph := by
  intro s m h
  cases ph with
  | p0 | p1 | p2 => rfl
  | p3 =>
    cases sm with
    | abst | absd => exact resolveAbsolute_withMem h
    | relt | reld => exact resolveRelative_withMem h
  | p4 => exact absurd rfl hp4

/-- Where the parameter names the text segment, no binary operation sees the data segment (`45_binary_ops.md` R222). -/
theorem binaryEffects_seesTextOnly {p : Params} (hp : p.binopDataOperandSegment = .text) (op : BinOp) (r : Reg)
    (lm : LoadMode) (ph : Phase) : (binaryEffects p op r lm).SeesTextOnly ph := by
  intro s m h
  cases ph with
  | p0 | p1 => rfl
  | p2 => cases lm <;> simp [PhaseEffects.during, binaryEffects]
  | p3 =>
    cases lm with
    | accd | ixd => rfl
    | imm => simp [PhaseEffects.during, binaryEffects, h s.mar]
    | abst | absd => exact resolveAbsolute_withMem h
    | relt | reld => exact resolveRelative_withMem h
  | p4 =>
    cases lm with
    | accd | ixd | imm => rfl
    | abst | absd | relt | reld => simp [PhaseEffects.during, binaryEffects, hp, h s.mar]

/-- Every row of the table of `41_phase_engine.md` R139 sees the text segment only, p4 of the loads in a data mode and of
the stores excepted. -/
theorem variantEffects_seesTextOnly {p : Params} (hp : p.binopDataOperandSegment = .text) {v : Variant} {ph : Phase}
    (hload : ∀ r lm, v = .ld r lm → ¬ (ph = .p4 ∧ (lm = .absd ∨ lm = .reld)))
    (hstore : ∀ r sm, v = .st r sm → ph ≠ .p4) : (variantEffects p v).SeesTextOnly ph := by
  cases v with
  | nop | hlt => exact idleEffects_seesTextOnly ph
  | out => exact outputEffects_seesTextOnly ph
  | inp => exact inputEffects_seesTextOnly ph
  | rcf => exact carryEffects_seesTextOnly false ph
  | scf => exact carryEffects_seesTextOnly true ph
  | b c => exact branchEffects_seesTextOnly c ph
  | sh r sm => exact shiftEffects_seesTextOnly r sm ph
  | rot r sm => exact rotateEffects_seesTextOnly r sm ph
  | ld r lm => exact loadEffects_seesTextOnly r lm ph (hload r lm rfl)
  | st r sm => exact storeEffects_seesTextOnly r sm (hstore r sm rfl)
  | bin op r lm => exact binaryEffects_seesTextOnly hp op r lm ph

/-- From memories `k` and `m` to `k'` and `m'`: both are kept, or both take the same byte at the same place. -/
inductive SameWrite (k m : Memory) : Memory → Memory → Prop
  | kept : SameWrite k m k m
  | written (g : Segment) (a v : Byte) :
      SameWrite k m (Memory.write k (physical g a) v) (Memory.write m (physical g a) v)

/-- After the same write to two canonical memories a byte reads the same in both or is the one each had before. -/
theorem SameWrite.read_eq_or_kept {k m k' m' : Memory} (h : SameWrite k m k' m') (hk : Memory.wf k = true)
    (hm : Memory.wf m = true) (q : Nat) :
    Memory.read m' q = Memory.read k' q ∨
      (Memory.read m' q = Memory.read m q ∧ Memory.read k' q = Memory.read k q) := by
  cases h with
  | kept => exact .inr ⟨rfl, rfl⟩
  | written g a v =>
    by_cases hq : q = physical g a
    · subst hq
      exact .inl ((Memory.read_write_same m _ v hm).trans (Memory.read_write_same k _ v hk).symm)
    · exact .inr ⟨Memory.read_write_other m v hq, Memory.read_write_other k v hq⟩

/-- An execute phase other than p4 of a load in a data mode, run from two memories with the same text: every field but MEM
comes out the same, and MEM takes the same write. -/
theorem during_withMem_sameWrite {p : Params} (hp : p.binopDataOperandSegment = .text) {v : Variant} {ph : Phase}
    (hload : ∀ r lm, v = .ld r lm → ¬ (ph = .p4 ∧ (lm = .absd ∨ lm = .reld))) {s : State} {m : Memory}
    (htext : SameText m s) :
    ∃ m', (variantEffects p v).during ph (s.withMem m) = ((variantEffects p v).during ph s).withMem m' ∧
      SameWrite s.mem m ((variantEffects p v).during ph s).mem m' := by
  by_cases hstore : ∃ r sm, v = .st r sm ∧ ph = .p4
  · obtain ⟨r, sm, rfl, rfl⟩ := hstore
    refine ⟨Memory.write m (physical (storeSegment sm) s.mar) (s.reg r), ?_⟩
    simp only [PhaseEffects.during, variantEffects, storeEffects_p4, State.withMem_reg]
    exact ⟨rfl, .written _ _ _⟩
  · have hsees : (variantEffects p v).SeesTextOnly ph :=
      variantEffects_seesTextOnly hp hload fun r sm hv hph => hstore ⟨r, sm, hv, hph⟩
    exact ⟨m, hsees s m htext, by rw [hsees.mem_eq s]; exact .kept⟩

/-- A step other than p4 of a load in a data mode, from two memories with the same text, goes on in both to states that
differ in MEM alone, which took the same write. -/
theorem step_withMem_sameWrite {s t : State} {m : Memory} (htext : SameText m s)
    (hload : ∀ r, ¬ (s.phase = .p4 ∧ (s.ir = some (.ldAbsd r) ∨ s.ir = some (.ldReld r)))) (h : step s = .next t) :
    ∃ m', step (s.withMem m) = .next (t.withMem m') ∧ SameWrite s.mem m t.mem m' := by
  rcases step_next_during h with ⟨hp, rfl⟩ | ⟨hp, i, hdecode, rfl⟩ | ⟨hp, i, hir, rfl⟩
  · exact ⟨m, step_of_p0 hp, .kept⟩
  · exact ⟨m, step_of_p1 hp (by rw [State.withMem_mar, htext, hdecode]), .kept⟩
  · have hnoDataLoad : ∀ r lm, i.variant = .ld r lm → ¬ (s.phase = .p4 ∧ (lm = .absd ∨ lm = .reld)) := by
      rintro r lm hv ⟨hp4, hmode⟩
      obtain rfl := instr_eq_toInstr_of_variant_eq hv
      refine hload r ⟨hp4, hmode.imp ?_ ?_⟩ <;> rintro rfl <;> exact hir
    obtain ⟨m', hduring, hwrite⟩ := during_withMem_sameWrite (p := Params.standard) rfl hnoDataLoad htext
    refine ⟨m', ?_, hwrite⟩
    rw [step_of_exec (s := s.withMem m) hp hir, State.withMem_phase, hduring]
    rfl

/-- Settles O57: the two runs take the same write, and where the text segment is kept it read the same before. -/
theorem dataSegmentReadOnlyByDataLoads : Obligations.DataSegmentReadOnlyByDataLoads := by
  intro s t m htext hload h
  obtain ⟨m', hstep, hwrite⟩ := step_withMem_sameWrite htext hload h
  refine ⟨m', hstep, fun hs hm => ⟨fun a => ?_, fun a => hwrite.read_eq_or_kept hs hm (physical .data a)⟩⟩
  rcases hwrite.read_eq_or_kept hs hm (physical .text a) with hsame | ⟨hkept, hkept'⟩
  · exact hsame
  · exact hkept.trans ((htext a).trans hkept'.symm)

end Sys2Proof.Machine
end

section
/-! The fields of an opcode byte (`30_encoding.md` R72, R76 to R79): what each field of the decoder reads back from a byte put
together from a class, a register bit and three low bits, and that every byte is put together so. -/

namespace Sys2Proof

theorem opcodeClass_append (c low : Nibble) : opcodeClass (c ++ low) = c := BitVec.extractLsb'_append_eq_left

theorem lowNibble_append (c low : Nibble) : lowNibble (c ++ low) = low := BitVec.extractLsb'_append_eq_right

theorem extractLsb'_modeBits (c : Nibble) (k : BitVec 1) (n : BitVec 3) :
    (c ++ (k ++ n) : Byte).extractLsb' 0 3 = n := by
  rw [BitVec.extractLsb'_append_eq_of_add_le (by decide), BitVec.extractLsb'_append_eq_right]

theorem getLsbD_regBit (c : Nibble) (k : BitVec 1) (n : BitVec 3) :
    (c ++ (k ++ n) : Byte).getLsbD 3 = k.getLsbD 0 := by
  simp only [BitVec.getLsbD_append]; rfl

theorem getLsbD_modeBits (c : Nibble) (k : BitVec 1) (n : BitVec 3) {i : Nat} (hi : i < 3) :
    (c ++ (k ++ n) : Byte).getLsbD i = n.getLsbD i := by
  rw [BitVec.getLsbD_append, if_pos (by omega), BitVec.getLsbD_append, if_pos hi]

theorem getLsbD_shiftKind (c : Nibble) (r k : BitVec 1) (n : BitVec 2) :
    (c ++ (r ++ (k ++ n)) : Byte).getLsbD 2 = k.getLsbD 0 := by
  simp only [BitVec.getLsbD_append]; rfl

/-- Every byte is a class, a register bit and three low bits. -/
theorem exists_byte_fields (b : Byte) : ∃ (c : Nibble) (k : BitVec 1) (n : BitVec 3), b = c ++ (k ++ n) := by
  refine ⟨b.extractLsb' 4 4, b.extractLsb' 3 1, b.extractLsb' 0 3, ?_⟩
  rw [BitVec.extractLsb'_append_extractLsb'_eq_extractLsb' (by decide),
    BitVec.extractLsb'_append_extractLsb'_eq_extractLsb' (by decide)]
  exact BitVec.extractLsb'_eq_self.symm

theorem threeBits_cases : ∀ n : BitVec 3,
    n = 0#3 ∨ n = 1#3 ∨ n = 2#3 ∨ n = 3#3 ∨ n = 4#3 ∨ n = 5#3 ∨ n = 6#3 ∨ n = 7#3 := by decide

theorem exists_reg_bit (k : BitVec 1) : ∃ r : Reg, k = r.bit := by
  rcases BitVec.eq_zero_or_eq_one k with rfl | rfl
  · exact ⟨.acc, rfl⟩
  · exact ⟨.ix, rfl⟩

theorem regField_append (c : Nibble) (r : Reg) (n : BitVec 3) : regField (c ++ (r.bit ++ n)) = r := by
  rw [regField, getLsbD_regBit]
  cases r <;> rfl

/-- The three low bits of a shift or rotate are k and a mode (format S of `30_encoding.md` R72). -/
theorem exists_shift_bits (n : BitVec 3) : ∃ (k : BitVec 1) (sm : ShiftMode), n = k ++ sm.bits := by
  rcases threeBits_cases n with rfl | rfl | rfl | rfl | rfl | rfl | rfl | rfl
  · exact ⟨0#1, .ra, rfl⟩
  · exact ⟨0#1, .la, rfl⟩
  · exact ⟨0#1, .rl, rfl⟩
  · exact ⟨0#1, .ll, rfl⟩
  · exact ⟨1#1, .ra, rfl⟩
  · exact ⟨1#1, .la, rfl⟩
  · exact ⟨1#1, .rl, rfl⟩
  · exact ⟨1#1, .ll, rfl⟩

theorem shiftField_append (c : Nibble) (r k : BitVec 1) (sm : ShiftMode) :
    shiftField (c ++ (r ++ (k ++ sm.bits))) = sm := by
  rw [shiftField, getLsbD_modeBits _ _ _ (by decide), getLsbD_modeBits _ _ _ (by decide), BitVec.getLsbD_append,
    BitVec.getLsbD_append]
  cases sm <;> rfl

/-- The bits that select a load mode: its canonical bits, and m = 3 for immediate as well (`30_encoding.md` R77). -/
def LoadMode.Selected (lm : LoadMode) (n : BitVec 3) : Prop := n = lm.bits ∨ lm = .imm ∧ n = 3#3

theorem LoadMode.exists_selected (n : BitVec 3) : ∃ lm : LoadMode, lm.Selected n := by
  rcases threeBits_cases n with rfl | rfl | rfl | rfl | rfl | rfl | rfl | rfl
  · exact ⟨.accd, .inl rfl⟩
  · exact ⟨.ixd, .inl rfl⟩
  · exact ⟨.imm, .inl rfl⟩
  · exact ⟨.imm, .inr ⟨rfl, rfl⟩⟩
  · exact ⟨.abst, .inl rfl⟩
  · exact ⟨.absd, .inl rfl⟩
  · exact ⟨.relt, .inl rfl⟩
  · exact ⟨.reld, .inl rfl⟩

theorem loadField_append {lm : LoadMode} {n : BitVec 3} (h : lm.Selected n) (c : Nibble) (k : BitVec 1) :
    loadField (c ++ (k ++ n)) = lm := by
  rw [loadField, getLsbD_modeBits _ _ _ (by decide), getLsbD_modeBits _ _ _ (by decide),
    getLsbD_modeBits _ _ _ (by decide)]
  rcases h with rfl | ⟨rfl, rfl⟩
  · cases lm <;> rfl
  · rfl

/-- The register-direct modes are m = 0 and m = 1 (`30_encoding.md` R77). -/
theorem LoadMode.Selected.two_le_iff {lm : LoadMode} {n : BitVec 3} (h : lm.Selected n) :
    2#3 ≤ n ↔ lm.isDirect = false := by
  rcases h with rfl | ⟨rfl, rfl⟩
  · cases lm <;> decide
  · decide

theorem exists_store_bits (n : BitVec 3) : n < 4#3 ∨ ∃ sm : StoreMode, n = sm.bits := by
  rcases threeBits_cases n with rfl | rfl | rfl | rfl | rfl | rfl | rfl | rfl
  · exact .inl (by decide)
  · exact .inl (by decide)
  · exact .inl (by decide)
  · exact .inl (by decide)
  · exact .inr ⟨.abst, rfl⟩
  · exact .inr ⟨.absd, rfl⟩
  · exact .inr ⟨.relt, rfl⟩
  · exact .inr ⟨.reld, rfl⟩

theorem storeField_append (c : Nibble) (k : BitVec 1) (sm : StoreMode) : storeField (c ++ (k ++ sm.bits)) = some sm := by
  rw [storeField, getLsbD_modeBits _ _ _ (by decide), getLsbD_modeBits _ _ _ (by decide),
    getLsbD_modeBits _ _ _ (by decide)]
  cases sm <;> rfl

/-- Modes 0 to 3 of a store are the gap of the decoder (`30_encoding.md` R78). -/
theorem storeField_append_eq_none (c : Nibble) (k : BitVec 1) {n : BitVec 3} (h : n < 4#3) :
    storeField (c ++ (k ++ n)) = none := by
  have hbit : n.getLsbD 2 = false := by revert n; decide
  rw [storeField, getLsbD_modeBits _ _ _ (by decide), hbit]

/-- The sixteen classes: eight of their own and one for each binary operation (`30_encoding.md` R75, R89). -/
theorem opcodeClass_cases (c : Nibble) : c = 0x0#4 ∨ c = 0x1#4 ∨ c = 0x2#4 ∨ c = 0x3#4 ∨ c = 0x4#4 ∨ c = 0x5#4 ∨
    c = 0x6#4 ∨ c = 0x7#4 ∨ ∃ op : BinOp, c = op.opcodeClass := by
  have hmem : ∀ c : Nibble, c ∈ [0x0#4, 0x1#4, 0x2#4, 0x3#4, 0x4#4, 0x5#4, 0x6#4, 0x7#4] ∨
      c ∈ [BinOp.sbc, .adc, .sub, .add, .eor, .or, .and, .cmp].map BinOp.opcodeClass := by decide
  rcases hmem c with hown | hop
  · simp only [List.mem_cons, List.not_mem_nil, or_false] at hown
    tauto
  · obtain ⟨op, _, rfl⟩ := List.mem_map.mp hop
    simp

theorem BinOp.eight_le_opcodeClass (op : BinOp) : 8#4 ≤ op.opcodeClass := by cases op <;> decide

/-- The hex column of the table of `30_encoding.md` R80 is the default map read backwards. -/
theorem bcondDefault_code (c : Cond) : bcondDefault c.code = c := by cases c <;> rfl

theorem code_bcondDefault : ∀ code : Nibble, (bcondDefault code).code = code := by decide

theorem Variant.variant_toInstr (v : Variant) : v.toInstr.variant = v := by
  cases v with
  | nop | hlt | out | inp | rcf | scf => rfl
  | b c => cases c <;> rfl
  | sh r m | rot r m | ld r m | st r m => cases m <;> rfl
  | bin op r m => cases op <;> cases m <;> rfl

theorem Instr.toInstr_variant (i : Instr) : i.variant.toInstr = i := (Machine.instr_eq_toInstr_of_variant_eq rfl).symm

end Sys2Proof
end

section
/-! The decoder as the class table of `30_encoding.md` R75 and R81 to R89: one relation with a constructor per row, tied to
`decodeVariant` by `decodeVariant_eq_some_iff`. The statements on the encoding are case analyses of this relation. -/

namespace Sys2Proof

/-- The byte is an encoding of the variant under the branch map `m`: the rows of `30_encoding.md` R81 to R89, with the
ignored bits left free (R91). -/
inductive EncodingRow (m : Nibble → Cond) : Byte → Variant → Prop
  | nop (ignored : BitVec 3) : EncodingRow m (0x0#4 ++ (0#1 ++ ignored)) .nop
  | hlt (ignored : BitVec 3) : EncodingRow m (0x0#4 ++ (1#1 ++ ignored)) .hlt
  | out (ignored : BitVec 3) : EncodingRow m (0x1#4 ++ (0#1 ++ ignored)) .out
  | inp (ignored : BitVec 3) : EncodingRow m (0x1#4 ++ (1#1 ++ ignored)) .inp
  | rcf (ignored : BitVec 3) : EncodingRow m (0x2#4 ++ (0#1 ++ ignored)) .rcf
  | scf (ignored : BitVec 3) : EncodingRow m (0x2#4 ++ (1#1 ++ ignored)) .scf
  | branch (code : Nibble) : EncodingRow m (0x3#4 ++ code) (.b (m code))
  | shift (r : Reg) (sm : ShiftMode) : EncodingRow m (0x4#4 ++ (r.bit ++ (0#1 ++ sm.bits))) (.sh r sm)
  | rotate (r : Reg) (sm : ShiftMode) : EncodingRow m (0x4#4 ++ (r.bit ++ (1#1 ++ sm.bits))) (.rot r sm)
  | hltClass5 (low : Nibble) : EncodingRow m (0x5#4 ++ low) .hlt
  | load (r : Reg) (lm : LoadMode) (n : BitVec 3) (hn : lm.Selected n) :
      EncodingRow m (0x6#4 ++ (r.bit ++ n)) (.ld r lm)
  | store (r : Reg) (sm : StoreMode) : EncodingRow m (0x7#4 ++ (r.bit ++ sm.bits)) (.st r sm)
  | binary (op : BinOp) (r : Reg) (lm : LoadMode) (n : BitVec 3) (hn : lm.Selected n) :
      EncodingRow m (op.opcodeClass ++ (r.bit ++ n)) (.bin op r lm)

/-- The decoder reads every row of the class table. -/
theorem EncodingRow.decodeVariant_eq {m : Nibble → Cond} {b : Byte} {v : Variant} (h : EncodingRow m b v) :
    decodeVariant m b = some v := by
  unfold decodeVariant
  cases h with
  | nop | hlt | out | inp | rcf | scf => rw [opcodeClass_append, getLsbD_regBit]; rfl
  | branch code => rw [opcodeClass_append, lowNibble_append]; rfl
  | shift r sm | rotate r sm =>
    rw [opcodeClass_append, regField_append, shiftField_append, getLsbD_shiftKind]; rfl
  | hltClass5 low => rw [opcodeClass_append]; rfl
  | load r lm n hn => rw [opcodeClass_append, regField_append, loadField_append hn]; rfl
  | store r sm => rw [opcodeClass_append, regField_append, storeField_append]; rfl
  | binary op r lm n hn =>
    rw [opcodeClass_append, regField_append, loadField_append hn]
    cases op <;> rfl

/-- The class table has a row for every byte, the stores with a mode below 4 excepted. -/
theorem exists_encodingRow (m : Nibble → Cond) (b : Byte) :
    (∃ v, EncodingRow m b v) ∨ ∃ (k : BitVec 1) (n : BitVec 3), n < 4#3 ∧ b = 0x7#4 ++ (k ++ n) := by
  obtain ⟨c, k, n, rfl⟩ := exists_byte_fields b
  obtain ⟨r, rfl⟩ := exists_reg_bit k
  rcases opcodeClass_cases c with rfl | rfl | rfl | rfl | rfl | rfl | rfl | rfl | ⟨op, rfl⟩
  · cases r
    · exact .inl ⟨_, .nop n⟩
    · exact .inl ⟨_, .hlt n⟩
  · cases r
    · exact .inl ⟨_, .out n⟩
    · exact .inl ⟨_, .inp n⟩
  · cases r
    · exact .inl ⟨_, .rcf n⟩
    · exact .inl ⟨_, .scf n⟩
  · exact .inl ⟨_, .branch (r.bit ++ n)⟩
  · obtain ⟨k, sm, rfl⟩ := exists_shift_bits n
    rcases BitVec.eq_zero_or_eq_one k with rfl | rfl
    · exact .inl ⟨_, .shift r sm⟩
    · exact .inl ⟨_, .rotate r sm⟩
  · exact .inl ⟨_, .hltClass5 (r.bit ++ n)⟩
  · obtain ⟨lm, hlm⟩ := LoadMode.exists_selected n
    exact .inl ⟨_, .load r lm n hlm⟩
  · rcases exists_store_bits n with hgap | ⟨sm, rfl⟩
    · exact .inr ⟨r.bit, n, hgap, rfl⟩
    · exact .inl ⟨_, .store r sm⟩
  · obtain ⟨lm, hlm⟩ := LoadMode.exists_selected n
    exact .inl ⟨_, .binary op r lm n hlm⟩

/-- The gap of the class table does not decode. -/
theorem decodeVariant_store_gap (m : Nibble → Cond) (k : BitVec 1) {n : BitVec 3} (h : n < 4#3) :
    decodeVariant m (0x7#4 ++ (k ++ n)) = none := by
  rw [decodeVariant, opcodeClass_append, storeField_append_eq_none _ _ h]; rfl

/-- The decoder is the class table. -/
theorem decodeVariant_eq_some_iff {m : Nibble → Cond} {b : Byte} {v : Variant} :
    decodeVariant m b = some v ↔ EncodingRow m b v := by
  refine ⟨fun h => ?_, EncodingRow.decodeVariant_eq⟩
  rcases exists_encodingRow m b with ⟨w, hw⟩ | ⟨k, n, hn, rfl⟩
  · obtain rfl : v = w := Option.some.inj (h.symm.trans hw.decodeVariant_eq)
    exact hw
  · cases (decodeVariant_store_gap m k hn).symm.trans h

theorem decodeWith_eq_instr_iff {m : Nibble → Cond} {b : Byte} {i : Instr} :
    decodeWith m b = .instr i ↔ EncodingRow m b i.variant := by
  rw [← decodeVariant_eq_some_iff]
  unfold decodeWith
  cases decodeVariant m b with
  | none => simp
  | some v =>
    simp only [Decoded.instr.injEq, Option.some.injEq]
    constructor
    · rintro rfl; exact v.variant_toInstr.symm
    · rintro rfl; exact i.toInstr_variant

theorem EncodingRow.decodeWith_eq {m : Nibble → Cond} {b : Byte} {v : Variant} (h : EncodingRow m b v) :
    decodeWith m b = .instr v.toInstr :=
  decodeWith_eq_instr_iff.mpr (v.variant_toInstr.symm ▸ h)

theorem decodeWith_store_gap (m : Nibble → Cond) (k : BitVec 1) {n : BitVec 3} (h : n < 4#3) :
    decodeWith m (0x7#4 ++ (k ++ n)) = .fail (0x7#4 ++ (k ++ n)) := by
  rw [decodeWith, decodeVariant_store_gap m k h]

/-- The eight illegal bytes are the gap of the class table (`30_encoding.md` R90). -/
theorem mem_illegalOpcodes_iff (b : Byte) :
    b ∈ illegalOpcodes ↔ ∃ (k : BitVec 1) (n : BitVec 3), n < 4#3 ∧ b = 0x7#4 ++ (k ++ n) := by
  constructor
  · revert b; decide
  · rintro ⟨k, n, hn, rfl⟩
    revert k n; decide

/-- Under every branch map an illegal byte fails, with the byte itself (`30_encoding.md` R71, R90). -/
theorem decodeWith_of_illegal (m : Nibble → Cond) {b : Byte} (h : b ∈ illegalOpcodes) : decodeWith m b = .fail b := by
  obtain ⟨k, n, hn, rfl⟩ := (mem_illegalOpcodes_iff b).mp h
  exact decodeWith_store_gap m k hn

/-- Under every branch map any other byte decodes. -/
theorem exists_instr_of_legal (m : Nibble → Cond) {b : Byte} (h : ¬ b ∈ illegalOpcodes) :
    ∃ i, decodeWith m b = .instr i := by
  rcases exists_encodingRow m b with ⟨v, hrow⟩ | hgap
  · exact ⟨_, hrow.decodeWith_eq⟩
  · exact absurd ((mem_illegalOpcodes_iff b).mpr hgap) h

end Sys2Proof
end

section
/-! What the rows of the class table say of the canonical encoding (`30_encoding.md` R91; log 23) and of the length (R73), and
the statements on the encoding. -/

namespace Sys2Proof

/-- The encoder writes a row of the class table. -/
theorem encodingRow_encodeVariant (v : Variant) : EncodingRow bcondDefault (encodeVariant v) v := by
  cases v with
  | nop => exact .nop 0#3
  | hlt => exact .hlt 0#3
  | out => exact .out 0#3
  | inp => exact .inp 0#3
  | rcf => exact .rcf 0#3
  | scf => exact .scf 0#3
  | b c =>
    have hrow := EncodingRow.branch (m := bcondDefault) c.code
    rwa [bcondDefault_code] at hrow
  | sh r sm => exact .shift r sm
  | rot r sm => exact .rotate r sm
  | ld r lm => exact .load r lm lm.bits (.inl rfl)
  | st r sm => exact .store r sm
  | bin op r lm => exact .binary op r lm lm.bits (.inl rfl)

/-- Decoding inverts encoding on the opcode byte (default branch map, log 1). -/
theorem decode_encodeOpcode (i : Instr) : decode (encodeOpcode i) = .instr i :=
  decodeWith_eq_instr_iff.mpr (encodingRow_encodeVariant i.variant)

theorem encodeOpcode_injective {i j : Instr} (h : encodeOpcode i = encodeOpcode j) : i = j := by
  have hdecode := congrArg decode h
  simpa only [decode_encodeOpcode, Decoded.instr.injEq] using hdecode

/-- Settles O1: the stream reader decodes the opcode byte and takes an operand byte exactly where the line has one. -/
theorem decodeEncodeRoundTrip : Obligations.DecodeEncodeRoundTrip := by
  rintro ⟨i, operand⟩ rest hwf
  have hwf : operand.isSome = i.variant.hasOperandByte := by simpa [CodeLine.wf] using hwf
  cases operand with
  | none => simp [encode, decodeLine, decode_encodeOpcode, ← hwf]
  | some d => simp [encode, decodeLine, decode_encodeOpcode, ← hwf]

/-- Classes 3, 4 and 7 have no ignored bits. -/
theorem canonicalOpcode_of_noIgnoredBits {c : Nibble} (hc : c = 3#4 ∨ c = 4#4 ∨ c = 7#4) (low : Nibble) :
    canonicalOpcode (c ++ low) = c ++ low := by
  rw [canonicalOpcode, opcodeClass_append]
  rcases hc with rfl | rfl | rfl <;> rfl

/-- In a class with load modes the canonical form takes m = 3 to m = 2 and keeps every other byte. -/
theorem canonicalOpcode_of_loadMode {c : Nibble} (hc : c = 6#4 ∨ 8#4 ≤ c) (r : Reg) {lm : LoadMode} {n : BitVec 3}
    (hn : lm.Selected n) : canonicalOpcode (c ++ (r.bit ++ n)) = c ++ (r.bit ++ lm.bits) := by
  have hclass : c.toNat = 6 ∨ c.toNat ≥ 8 := hc.imp (congrArg BitVec.toNat) id
  have hmask : ∀ (c : Nibble) (k : BitVec 1), (c ++ (k ++ 3#3) : Byte) &&& 0xFE#8 = c ++ (k ++ 2#3) := by decide
  rw [canonicalOpcode, opcodeClass_append, extractLsb'_modeBits]
  rw [if_neg (by omega), if_neg (by omega)]
  rcases hn with rfl | ⟨rfl, rfl⟩
  · have hbits : lm.bits ≠ 3#3 := by cases lm <;> decide
    rw [if_neg fun h => hbits h.2]
  · rw [if_pos ⟨hclass, rfl⟩, hmask]; rfl

/-- The canonical form of a row is what the encoder writes for it. -/
theorem EncodingRow.canonicalOpcode_eq {b : Byte} {v : Variant} (h : EncodingRow bcondDefault b v) :
    canonicalOpcode b = encodeVariant v := by
  cases h with
  | nop ignored | hlt ignored | out ignored | inp ignored | rcf ignored | scf ignored => revert ignored; decide
  | branch code => rw [encodeVariant, code_bcondDefault]; exact canonicalOpcode_of_noIgnoredBits (.inl rfl) code
  | shift r sm | rotate r sm => exact canonicalOpcode_of_noIgnoredBits (.inr (.inl rfl)) _
  | hltClass5 low => revert low; decide
  | store r sm => exact canonicalOpcode_of_noIgnoredBits (.inr (.inr rfl)) _
  | load r lm n hn => exact canonicalOpcode_of_loadMode (.inl rfl) r hn
  | binary op r lm n hn => exact canonicalOpcode_of_loadMode (.inr op.eight_le_opcodeClass) r hn

theorem canonicalOpcode_of_decode {b : Byte} {i : Instr} (h : decode b = .instr i) :
    canonicalOpcode b = encodeOpcode i :=
  (decodeWith_eq_instr_iff.mp h).canonicalOpcode_eq

/-- Settles O2: a legal byte decodes to some instruction, and its canonical form determines which. -/
theorem decodeMatchesCanonicalOpcode : Obligations.DecodeMatchesCanonicalOpcode := by
  intro b i
  constructor
  · intro h
    refine ⟨fun hillegal => ?_, canonicalOpcode_of_decode h⟩
    cases (decodeWith_of_illegal bcondDefault hillegal).symm.trans h
  · rintro ⟨hlegal, hcanonical⟩
    obtain ⟨j, hj⟩ := exists_instr_of_legal bcondDefault hlegal
    obtain rfl : i = j := encodeOpcode_injective (hcanonical.symm.trans (canonicalOpcode_of_decode hj))
    exact hj

/-- A p1 that fetches an illegal byte raises with it (`41_phase_engine.md` R136, `60_exceptions.md` R250). -/
theorem step_of_p1_illegal {s : Machine.State} (hp : s.phase = .p1) (h : s.byteAt .text s.mar ∈ illegalOpcodes) :
    Machine.step s = .fault (.invalidInstruction (s.byteAt .text s.mar)) := by
  have hfail := decodeWith_of_illegal Params.standard.bcondMap h
  simp only [Machine.step, hp, Machine.phase1, Machine.phase1With, hfail, Machine.raiseInvalidInstruction]

/-- Settles O3: the gap of the class table is the eight bytes, and `step_fault` leaves no other step that raises. -/
theorem illegalBytesAreExactlyEight : Obligations.IllegalBytesAreExactlyEight := by
  refine ⟨fun m b => ⟨decodeWith_of_illegal m, exists_instr_of_legal m⟩, fun s => step_of_p1_illegal, fun s f h => ?_⟩
  obtain ⟨hp, b, hfail, _⟩ := Machine.step_fault h
  exact ⟨hp, Machine.decodeWith_fail hfail ▸ Machine.mem_illegalOpcodes_of_decodeWith_fail hfail⟩

/-- The formula of `30_encoding.md` R73, as a condition on the class and the mode bits of an opcode byte. -/
abbrev OperandByteRule (b : Byte) : Prop :=
  b.extractLsb' 4 4 = 3#4 ∨ b.extractLsb' 4 4 = 7#4 ∨
    ((b.extractLsb' 4 4 = 6#4 ∨ 8#4 ≤ b.extractLsb' 4 4) ∧ 2#3 ≤ b.extractLsb' 0 3)

/-- In a class with load modes the rule holds exactly of the modes that are not register-direct. -/
theorem operandByteRule_of_loadMode {c : Nibble} (hc : c = 6#4 ∨ 8#4 ≤ c) (k : BitVec 1) {lm : LoadMode} {n : BitVec 3}
    (hn : lm.Selected n) : OperandByteRule (c ++ (k ++ n)) ↔ lm.isDirect = false := by
  have hother : ∀ c : Nibble, c = 6#4 ∨ 8#4 ≤ c → c ≠ 3#4 ∧ c ≠ 7#4 := by decide
  obtain ⟨h3, h7⟩ := hother c hc
  rw [OperandByteRule, extractLsb'_modeBits, BitVec.extractLsb'_append_eq_left, ← hn.two_le_iff]
  simp only [h3, h7, hc, false_or, true_and]

/-- The rule holds of a row of the class table exactly where its variant has an operand byte. -/
theorem EncodingRow.operandByteRule_iff {m : Nibble → Cond} {b : Byte} {v : Variant} (h : EncodingRow m b v) :
    OperandByteRule b ↔ v.hasOperandByte = true := by
  cases h with
  | nop | hlt | out | inp | rcf | scf | branch | shift | rotate | hltClass5 | store =>
    rw [OperandByteRule, BitVec.extractLsb'_append_eq_left]
    simp [Variant.hasOperandByte]
  | load r lm n hn =>
    rw [operandByteRule_of_loadMode (.inl rfl) r.bit hn]
    simp [Variant.hasOperandByte]
  | binary op r lm n hn =>
    rw [operandByteRule_of_loadMode (.inr op.eight_le_opcodeClass) r.bit hn]
    simp [Variant.hasOperandByte]

/-- Settles O4: the length of a decoded instruction is that of the row its byte stands in. -/
theorem opcodeByteTellsLength : Obligations.OpcodeByteTellsLength := by
  intro m b i h
  exact (if_congr (decodeWith_eq_instr_iff.mp h).operandByteRule_iff rfl rfl).symm

/-- Settles O6: each of the seven formats is a row of the class table. -/
theorem controlClassesDecode : Obligations.ControlClassesDecode := fun _ ignored low =>
  ⟨(EncodingRow.nop ignored).decodeWith_eq, (EncodingRow.hlt ignored).decodeWith_eq,
    (EncodingRow.out ignored).decodeWith_eq, (EncodingRow.inp ignored).decodeWith_eq,
    (EncodingRow.rcf ignored).decodeWith_eq, (EncodingRow.scf ignored).decodeWith_eq,
    (EncodingRow.hltClass5 low).decodeWith_eq⟩

/-- Settles O7: each format is a row of the class table once its field values are read as the encoder's bits. -/
theorem fieldClassesDecode : Obligations.FieldClassesDecode := by
  intro m code bit r hr
  obtain rfl : bit = r.bit := by
    subst hr
    rcases BitVec.eq_zero_or_eq_one bit with rfl | rfl <;> rfl
  refine ⟨(EncodingRow.branch code).decodeWith_eq, fun sm n hn => ?_, fun lm n hn => ?_, fun sm n hn => ?_,
    fun n hn => decodeWith_store_gap m r.bit hn⟩
  · obtain rfl : n = sm.bits := by rw [hn]; cases sm <;> rfl
    exact ⟨(EncodingRow.shift r sm).decodeWith_eq, (EncodingRow.rotate r sm).decodeWith_eq⟩
  · have hsel : lm.Selected n := by
      cases lm with
      | imm => exact hn.imp id fun h3 => ⟨rfl, h3⟩
      | accd | ixd | abst | absd | relt | reld => exact .inl hn
    refine ⟨(EncodingRow.load r lm n hsel).decodeWith_eq, fun op c hc => ?_⟩
    obtain rfl : c = op.opcodeClass := by rw [hc]; cases op <;> rfl
    exact (EncodingRow.binary op r lm n hsel).decodeWith_eq
  · obtain rfl : n = sm.bits := by rw [hn]; cases sm <;> rfl
    exact (EncodingRow.store r sm).decodeWith_eq

end Sys2Proof
end

section
/-! The arithmetic of `compute` (`40_alu.md` R100 to R114): its result as byte arithmetic, its flags read from the result, and
its carry read from the exact value. Only the carry sees which widening runs. -/

namespace Sys2Proof.Machine

/-- Either widening keeps the byte modulo 256. -/
@[simp] theorem trunc8_widen (wd : AluWiden) (v : Byte) : trunc8 (widen wd v) = v := by
  cases wd with
  | signed => exact BitVec.ofInt_toInt
  | unsigned => simp [widen]

theorem trunc8_sub (x y : Int) : trunc8 (x - y) = trunc8 x - trunc8 y := by
  rw [Int.sub_eq_add_neg, trunc8, BitVec.ofInt_add, BitVec.ofInt_neg, BitVec.sub_eq_add_neg]

/-- The result of `compute` as arithmetic modulo 256 on the bytes themselves (the second column of `40_alu.md` R114). -/
def byteResult (op : BinOp) (b o : Byte) (f : Flags) : Byte :=
  match op with
  | .sbc => b - (o - trunc8 (carryIn f))
  | .adc => b + (o + trunc8 (carryIn f))
  | .sub | .cmp => b - o
  | .add => b + o
  | .eor => b ^^^ o
  | .or => b ||| o
  | .and => b &&& o

/-- The result does not depend on the widening: truncation commutes with sums and differences (`40_alu.md` R112). -/
theorem compute_result (wd : AluWiden) (op : BinOp) (b o : Byte) (f : Flags) :
    (compute wd op b o f).1 = byteResult op b o f := by
  cases op with
  | sbc | adc | sub | add | cmp => simp [compute, byteResult, BitVec.ofInt_add, trunc8_sub]
  | eor | or | and => rfl

/-- VF out of `compute` from the bytes and the result (`40_alu.md` R109). -/
def overflowOut (op : BinOp) (b o result : Byte) : Bool :=
  match op with
  | .eor | .or | .and => false
  | .sbc | .adc | .sub | .add | .cmp => overflowFlag b o result

/-- Every flag of `compute` but CF is read from the bytes and the result (`40_alu.md` R109, R111). -/
theorem compute_flags (wd : AluWiden) (op : BinOp) (b o : Byte) (f : Flags) :
    (compute wd op b o f).2 =
      { zf := zeroFlag (compute wd op b o f).1
        nf := negativeFlag (compute wd op b o f).1
        vf := overflowOut op b o (compute wd op b o f).1
        cf := (compute wd op b o f).2.cf } := by
  cases op <;> rfl

/-- Two widenings that agree on the carry agree altogether. -/
theorem compute_eq_of_carry_eq {wd wd' : AluWiden} {op : BinOp} {b o : Byte} {f : Flags}
    (h : (compute wd op b o f).2.cf = (compute wd' op b o f).2.cf) : compute wd op b o f = compute wd' op b o f := by
  have hresult : (compute wd op b o f).1 = (compute wd' op b o f).1 := by rw [compute_result, compute_result]
  refine Prod.ext hresult ?_
  rw [compute_flags wd, compute_flags wd', hresult, h]

/-- Settles O52: result and flags but CF are functions of the bytes, and the other four operations keep CF. -/
theorem wideningOnlyAffectsCarry : Obligations.WideningOnlyAffectsCarry := by
  intro op b o f
  have hresult : (compute .unsigned op b o f).1 = (compute .signed op b o f).1 := by rw [compute_result, compute_result]
  refine ⟨hresult, ?_, fun hop => compute_eq_of_carry_eq ?_⟩
  · rw [compute_flags .signed, ← hresult]
    exact compute_flags .unsigned op b o f
  · have hkeeps : op = .eor ∨ op = .or ∨ op = .and ∨ op = .cmp := by tauto
    rw [compute_keeps_carry _ b o f hkeeps, compute_keeps_carry _ b o f hkeeps]

/-- The operations that write the carry, with the exact value each computes from its widened base `x`, widened operand `y`
and carry-in `c` (`40_alu.md` R101 to R104, R108). -/
inductive CarryWriter (x y c : Int) : BinOp → Int → Prop
  | sbc : CarryWriter x y c .sbc (x - (y - c))
  | adc : CarryWriter x y c .adc (x + (y + c))
  | sub : CarryWriter x y c .sub (x - y)
  | add : CarryWriter x y c .add (x + y)

/-- An operation that writes the carry truncates its exact value and reads all four flags from it. -/
theorem CarryWriter.compute_eq {wd : AluWiden} {op : BinOp} {b o : Byte} {f : Flags} {w : Int}
    (h : CarryWriter (widen wd b) (widen wd o) (carryIn f) op w) :
    compute wd op b o f = (trunc8 w, arithmeticFlags b o (trunc8 w) w) := by
  cases h <;> rfl

/-- From signed bytes and a carry bit the exact value lies from -256 to 256 (`40_alu.md` R108). -/
theorem CarryWriter.mem_range {x y c w : Int} {op : BinOp} (h : CarryWriter x y c op w)
    (hx : -128 ≤ x ∧ x ≤ 127) (hy : -128 ≤ y ∧ y ≤ 127) (hc : 0 ≤ c ∧ c ≤ 1) : -256 ≤ w ∧ w ≤ 256 := by
  cases h <;> omega

/-- Bits 15:8 of the two's-complement word of `w`, as arithmetic. -/
theorem carryOfWide_eq_decide_div (w : Int) : carryOfWide w = decide ((w % 65536) / 256 ≠ 0) := by
  have hzero : (BitVec.ofInt 16 w).extractLsb' 8 8 = 0#8 ↔ (w % 65536) / 256 = 0 := by
    rw [← BitVec.toNat_inj, BitVec.toNat_ofNat, BitVec.extractLsb'_toNat, BitVec.toNat_ofInt,
      Nat.shiftRight_eq_div_pow]
    omega
  rw [Bool.eq_iff_iff, carryOfWide, bne_iff_ne, decide_eq_true_iff]
  exact not_congr hzero

/-- In the range of the signed values the carry says that the value is no unsigned byte (`40_alu.md` R108). -/
theorem carryOfWide_eq_decide_of_mem_range {w : Int} (h : -256 ≤ w ∧ w ≤ 256) :
    carryOfWide w = decide (w < 0 ∨ w > 255) := by
  rw [carryOfWide_eq_decide_div, decide_eq_decide]
  omega

theorem s8_mem_range (v : Byte) : -128 ≤ s8 v ∧ s8 v ≤ 127 :=
  ⟨BitVec.le_toInt v, Int.le_of_lt_add_one (BitVec.toInt_lt (x := v))⟩

theorem carryIn_mem_range (f : Flags) : 0 ≤ carryIn f ∧ carryIn f ≤ 1 := by
  unfold carryIn
  split <;> decide

/-- Settles O51: the four writers of the carry read it from their exact value, whose range decides the signed form. -/
theorem carryFlagRule : Obligations.CarryFlagRule := by
  intro wd b o f x y c hx hy hc
  obtain rfl : x = widen wd b := by rw [hx]; cases wd <;> rfl
  obtain rfl : y = widen wd o := by rw [hy]; cases wd <;> rfl
  obtain rfl : c = carryIn f := hc
  constructor
  · rintro ⟨op, w⟩ hz
    have hwriter : CarryWriter (widen wd b) (widen wd o) (carryIn f) op w := by
      simp only [List.mem_cons, List.not_mem_nil, Prod.mk.injEq, or_false] at hz
      rcases hz with ⟨rfl, rfl⟩ | ⟨rfl, rfl⟩ | ⟨rfl, rfl⟩ | ⟨rfl, rfl⟩
      exacts [.sbc, .adc, .sub, .add]
    have hcarry : (compute wd op b o f).2.cf = carryOfWide w := by rw [hwriter.compute_eq]; rfl
    refine ⟨hcarry.trans (carryOfWide_eq_decide_div w), ?_⟩
    rintro rfl
    have hrange := hwriter.mem_range (s8_mem_range b) (s8_mem_range o) (carryIn_mem_range f)
    exact ⟨hrange.1, hrange.2, hcarry.trans (carryOfWide_eq_decide_of_mem_range hrange)⟩
  · intro op hop
    have hkeeps : op = .eor ∨ op = .or ∨ op = .and ∨ op = .cmp := by simp at hop; tauto
    exact compute_keeps_carry wd b o f hkeeps

end Sys2Proof.Machine
end

section
/-! The shift and rotate unit (`40_alu.md` R115 to R125): seven of its eight functions move the byte one place down or up and
put one bit into the vacated place; the left-arithmetic shift keeps bit 7 besides. -/

namespace Sys2Proof.Machine

/-- The byte moved one place down, with `top` as the new bit 7. -/
def moveDown (top : Bool) (v : Byte) : Byte := BitVec.cons top (v.extractLsb' 1 7)

/-- The byte moved one place up, with `low` as the new bit 0. -/
def moveUp (low : Bool) (v : Byte) : Byte := BitVec.concat (v.extractLsb' 0 7) low

@[simp] theorem moveDown_bit7 (top : Bool) (v : Byte) : (moveDown top v).getLsbD 7 = top := by
  simp [moveDown, BitVec.getElem_cons]

theorem moveDown_bit (top : Bool) (v : Byte) {i : Nat} (hi : i < 7) : (moveDown top v).getLsbD i = v.getLsbD (i + 1) := by
  simp [moveDown, BitVec.getLsbD_cons, hi, Nat.ne_of_lt hi, Nat.add_comm]

@[simp] theorem moveUp_bit0 (low : Bool) (v : Byte) : (moveUp low v).getLsbD 0 = low := by
  simp [moveUp]

theorem moveUp_bit_succ (low : Bool) (v : Byte) {i : Nat} (hi : i < 7) : (moveUp low v).getLsbD (i + 1) = v.getLsbD i := by
  simp [moveUp, hi]

/-- Moving up takes back a move down, given the bit that fell out. -/
theorem moveUp_moveDown (top : Bool) (v : Byte) : moveUp (v.getLsbD 0) (moveDown top v) = v := by
  refine BitVec.eq_of_getLsbD_eq fun i hi => ?_
  cases i with
  | zero => rw [moveUp_bit0]
  | succ i => rw [moveUp_bit_succ _ _ (by omega), moveDown_bit _ _ (by omega)]

/-- Moving down takes back a move up, given the bit that fell out. -/
theorem moveDown_moveUp (low : Bool) (v : Byte) : moveDown (v.getLsbD 7) (moveUp low v) = v := by
  refine BitVec.eq_of_getLsbD_eq fun i hi => ?_
  obtain rfl | hlt : i = 7 ∨ i < 7 := by omega
  · rw [moveDown_bit7]
  · rw [moveDown_bit _ _ hlt, moveUp_bit_succ _ _ hlt]

section
variable (v : Byte) (cin : Bool)

theorem shift_ra : shift v .ra = (moveDown (v.getLsbD 7) v, v.getLsbD 0) := rfl
theorem shift_rl : shift v .rl = (moveDown false v, v.getLsbD 0) := rfl
theorem shift_ll : shift v .ll = (moveUp false v, v.getLsbD 7) := rfl
theorem rotate_ra : rotate v .ra cin = (moveDown cin v, v.getLsbD 0) := rfl
theorem rotate_la : rotate v .la cin = (moveUp cin v, v.getLsbD 7) := rfl
theorem rotate_rl : rotate v .rl cin = (moveDown (v.getLsbD 0) v, v.getLsbD 0) := rfl
theorem rotate_ll : rotate v .ll cin = (moveUp (v.getLsbD 7) v, v.getLsbD 7) := rfl

/-- The left-arithmetic shift keeps bit 7, so bit 6 is lost (`40_alu.md` R117). -/
theorem shift_la_bit7 : (shift v .la).1.getLsbD 7 = v.getLsbD 7 := by
  simp [shift, BitVec.getElem_cons]

theorem shift_la_bit0 : (shift v .la).1.getLsbD 0 = false := by
  simp [shift, BitVec.getElem_cons]

theorem shift_la_bit_succ {i : Nat} (hi : i < 6) : (shift v .la).1.getLsbD (i + 1) = v.getLsbD i := by
  simp [shift, BitVec.getLsbD_cons, hi, Nat.ne_of_lt hi]

end

/-- Settles O49: every function but the left-arithmetic shift is a move, whose bits are known. -/
theorem shiftAndRotateBits : Obligations.ShiftAndRotateBits := by
  intro v cin
  simp only [shift_ra, shift_rl, shift_ll, rotate_ra, rotate_la, rotate_rl, rotate_ll, moveDown_bit7, moveUp_bit0,
    shift_la_bit7, shift_la_bit0, true_and, and_true]
  refine ⟨fun i hi => ?_, rfl⟩
  have hdown : ∀ top, (moveDown top v).getLsbD i = v.getLsbD (i + 1) := fun top => moveDown_bit top v hi
  have hup : ∀ low, (moveUp low v).getLsbD (i + 1) = v.getLsbD i := fun low => moveUp_bit_succ low v hi
  exact ⟨hdown _, hdown _, hup _, shift_la_bit_succ v, hdown _, hup _, hdown _, hup _⟩

/-- Settles O50: the bit a rotate carries out is the bit the opposite move takes in, and the bit it took in is the one the
opposite move carries out. -/
theorem throughCarryRotatesInvert : Obligations.ThroughCarryRotatesInvert := by
  intro v c
  refine ⟨⟨rfl, moveDown_bit7 _ v⟩, ⟨rfl, shift_la_bit7 v⟩, ?_, ?_⟩
  · rw [rotate_ra, rotate_la, moveUp_moveDown, moveDown_bit7]
  · rw [rotate_la, rotate_ra, moveDown_moveUp, moveUp_bit0]

end Sys2Proof.Machine
end

section
/-! The phase engine as an engine (`41_phase_engine.md` R130 to R136): the two fetch phases and the signal, the phase after n
steps, and the state after a decode failure. -/

namespace Sys2Proof.Machine

/-- What p0 leaves, field by field (`41_phase_engine.md` R132). -/
theorem fetchAddress_advance_of_p0 {s : State} (hp : s.phase = .p0) :
    s.fetchAddress.advance = { s with mar := s.pc, pc := s.pc + 1#8, phase := .p1 } := by
  simp only [State.advance, State.fetchAddress, hp, nextPhase]

/-- No fetch phase signals Halt, whatever IR holds (`41_phase_engine.md` R138). -/
theorem signal_of_fetchPhase {s : State} (hp : isExecutePhase s.phase = false) : signal s = .cont := by
  cases hsig : signal s with
  | cont => rfl
  | halt =>
    obtain ⟨hexec, _⟩ := (signal_eq_halt_iff s).mp hsig
    rw [hp] at hexec
    cases hexec

theorem stepWith_of_p0 (p : Params) {s : State} (hp : s.phase = .p0) :
    stepWith p s = .next s.fetchAddress.advance := by
  simp only [stepWith, hp, phase0]

theorem stepWith_of_p1 (p : Params) {s : State} (hp : s.phase = .p1) : stepWith p s = phase1With p s := by
  simp only [stepWith, hp]

/-- The phases in which IR is interpreted are three of the five (`41_phase_engine.md` R134). -/
theorem executePhase_cases {p : Phase} (h : isExecutePhase p = true) : p = .p2 ∨ p = .p3 ∨ p = .p4 := by
  cases p with
  | p0 | p1 => cases h
  | p2 | p3 | p4 => simp

/-- In an execute phase the step dispatches on IR (`41_phase_engine.md` R134). -/
theorem step_eq_exec {s : State} {i : Instr} (hp : isExecutePhase s.phase = true) (hir : s.ir = some i) :
    step s = exec i s := by
  rcases executePhase_cases hp with h | h | h <;> simp only [step, h, hir]

/-- Settles O8: `step_eq_exec`, and the two fetch phases lead to a p2 with the instruction in IR. -/
theorem stepRunsDecodedInstruction : Obligations.StepRunsDecodedInstruction :=
  ⟨fun _ _ => step_eq_exec, fun _ _ hp hdecode => ⟨_, stepTimes_two_fetch hp hdecode, rfl, step_eq_exec rfl rfl⟩⟩

/-- Settles O9: the step is `phase0`, and p0 is no phase that reads IR for the signal. -/
theorem opcodeAddressPhase : Obligations.OpcodeAddressPhase := fun s hp =>
  ⟨by rw [step_of_p0 hp, fetchAddress_advance_of_p0 hp], signal_of_fetchPhase (by rw [hp]; rfl)⟩

/-- Settles O10: the two answers of the decoder are the two outcomes of p1. -/
theorem opcodeFetchPhase : Obligations.OpcodeFetchPhase := by
  intro p s hp
  rw [stepWith_of_p1 p hp]
  constructor
  · intro i hdecode
    refine ⟨?_, signal_of_fetchPhase (by rw [hp]; rfl)⟩
    simp only [phase1With, hdecode, State.advance, hp, nextPhase]
  · intro b hfail
    refine ⟨?_, decodeWith_fail hfail⟩
    simp only [phase1With, hfail, raiseInvalidInstruction]

/-- Settles O11: `step_next_phase` at each of the five positions. -/
theorem phaseAdvancesByOne : Obligations.PhaseAdvancesByOne := by
  intro s t h
  have hnext := step_next_phase h
  refine ⟨?_, ?_, ?_, ?_, ?_⟩ <;> exact fun hp => by rw [hnext, hp]; rfl

/-- The position of the next phase in the cycle of five. -/
theorem phaseIndex_nextPhase (p : Phase) : phaseIndex (nextPhase p) = (phaseIndex p + 1) % 5 := by
  cases p <;> rfl

theorem phaseIndex_lt (p : Phase) : phaseIndex p < 5 := by
  cases p <;> decide

/-- A run of n + 1 steps that goes on is a step that goes on and a run of n steps. -/
theorem stepTimes_succ_next {n : Nat} {s t : State} (h : stepTimes (n + 1) s = .next t) :
    ∃ u, step s = .next u ∧ stepTimes n u = .next t := by
  unfold stepTimes at h
  split at h
  · next u hu => exact ⟨u, hu, h⟩
  · cases h
  · cases h

/-- Settles O12, by induction on the number of steps. -/
theorem phaseOfNthStep : Obligations.PhaseOfNthStep := by
  intro n
  induction n with
  | zero =>
    intro s t h
    cases h
    exact (Nat.mod_eq_of_lt (phaseIndex_lt s.phase)).symm
  | succ n ih =>
    intro s t h
    obtain ⟨u, hstep, hrun⟩ := stepTimes_succ_next h
    rw [ih u t hrun, step_next_phase hstep, phaseIndex_nextPhase]
    omega

/-- At p1 the parameter decides the phase after a decode failure and nothing else (`41_phase_engine.md` R136). -/
theorem stateAfterDecodeFaultWith_cases (p : Params) {s : State} (hp : s.phase = .p1) :
    p.phaseAfterDecodeFault = .staysP1 ∧ stateAfterDecodeFaultWith p s = { s with phase := .p1 } ∨
    p.phaseAfterDecodeFault = .advancesToP2 ∧ stateAfterDecodeFaultWith p s = { s with phase := .p2 } := by
  cases hparam : p.phaseAfterDecodeFault
  · exact .inl ⟨rfl, by simp only [stateAfterDecodeFaultWith, hparam, ← hp]⟩
  · exact .inr ⟨rfl, by simp only [stateAfterDecodeFaultWith, hparam]⟩

/-- The report of a p1 that fetches an illegal byte (`60_exceptions.md` R250, R251). -/
theorem stepReport_of_p1_illegal {s : State} (hp : s.phase = .p1) (h : s.byteAt .text s.mar ∈ illegalOpcodes) :
    stepReport s = some (stateAfterDecodeFault s, .invalidInstruction (s.byteAt .text s.mar)) := by
  simp only [stepReport, step_of_p1_illegal hp h]

/-- Settles O15: p0 goes on to a p1 that reads the same byte, and the state after its failure is one of two. -/
theorem decodeFaultKeepsFetchAddress : Obligations.DecodeFaultKeepsFetchAddress := by
  constructor
  · intro s hp hillegal
    have hp1 : s.fetchAddress.advance.phase = .p1 := by rw [fetchAddress_advance_of_p0 hp]
    have hreport := stepReport_of_p1_illegal hp1 hillegal
    refine ⟨_, _, step_of_p0 hp, hreport, ?_⟩
    rcases stateAfterDecodeFaultWith_cases Params.standard hp1 with ⟨_, hstate⟩ | ⟨_, hstate⟩
    · exact .inl hstate
    · exact .inr hstate
  · intro p s hp
    rcases stateAfterDecodeFaultWith_cases p hp with ⟨hparam, hstate⟩ | ⟨hparam, hstate⟩ <;> rw [hstate, hparam]

/-- Settles O55: p0 copies IR unread, and p1 reads neither it nor anything it has touched. -/
theorem instructionRegisterNotInterpretedInFetch : Obligations.InstructionRegisterNotInterpretedInFetch := by
  intro p s t j hp
  have hpj : ({ s with ir := j } : State).phase = .p0 := hp
  constructor
  · rw [stepWith_of_p0 p hp, stepWith_of_p0 p hpj, Host.Outcome.next.injEq, Host.Outcome.next.injEq]
    constructor
    · rintro rfl
      exact ⟨rfl, rfl⟩
    · rintro ⟨hnext, hir⟩
      have hrestored := congrArg (fun u : State => { u with ir := s.ir }) hnext
      exact hrestored.trans (by rw [← hir])
  · have hp1 : s.fetchAddress.advance.phase = .p1 := by rw [fetchAddress_advance_of_p0 hp]
    have hp1j : ({ s with ir := j } : State).fetchAddress.advance.phase = .p1 := hp1
    have hsame : step ({ s with ir := j } : State).fetchAddress.advance = step s.fetchAddress.advance := by
      rw [← stepWith_standard, ← stepWith_standard, stepWith_of_p1 _ hp1, stepWith_of_p1 _ hp1j]
      rfl
    simp only [stepTimes, step_of_p0 hp, step_of_p0 hpj, hsame]

end Sys2Proof.Machine
end

section
/-! The invariant of every run (`41_phase_engine.md` R140): the step and the host keep it, construction meets it, and under it
the one step that does not go on is the p1 that raises. -/

namespace Sys2Proof.Machine

/-- An execute phase keeps memory canonical: of its actions only the store writes MEM. -/
theorem ExecAction.mem_wf {p : Params} {s u : State} {v : Variant} {ph : Phase} (h : ExecAction p s v ph u)
    (hwf : Memory.wf s.mem = true) : Memory.wf u.mem = true := by
  cases h with
  | stored r m _ _ => exact State.storeByte_wf _ _ _ hwf
  | _ => simpa using hwf

/-- A step keeps memory canonical. -/
theorem step_next_mem_wf {s t : State} (h : step s = .next t) (hwf : Memory.wf s.mem = true) :
    Memory.wf t.mem = true := by
  rcases step_next_action h with ⟨_, rfl⟩ | ⟨_, i, rfl⟩ | ⟨i, u, _, haction, rfl⟩
  · exact hwf
  · exact hwf
  · exact haction.mem_wf hwf

/-- After a step IR holds an instruction wherever it is read: p1 has just written it, p2 and p3 leave it, and after p0 and p4
it is not read. -/
theorem step_next_ir_isSome {s t : State} (h : step s = .next t) (hexec : isExecutePhase t.phase = true) :
    t.ir.isSome = true := by
  rcases step_next_during h with ⟨hp, rfl⟩ | ⟨_, i, _, rfl⟩ | ⟨hexecuted, i, hir, _⟩
  · simp [hp, nextPhase, isExecutePhase] at hexec
  · rfl
  · have hp1 : s.phase ≠ .p1 := fun hp => by simp [hp, isExecutePhase] at hexecuted
    rw [step_next_ir h hp1, hir]
    rfl

/-- A step keeps the invariant. -/
theorem step_keeps_inv {s t : State} (hinv : Inv s) (h : step s = .next t) : Inv t := by
  obtain ⟨hwf, _⟩ := hinv
  exact ⟨step_next_mem_wf h hwf, step_next_ir_isSome h⟩

/-- A host move keeps the invariant: it writes a buffer only. -/
theorem applyMove_keeps_inv {m : HostMove} {s t : State} (hinv : Inv s) (h : applyMove m s = .next t) : Inv t := by
  rcases applyMove_next h with ⟨_, _, rfl⟩ | ⟨_, rfl⟩ <;> exact hinv

/-- Settles O17: only stores write MEM, and every one inside the segments; a phase that reads IR follows one that has it. -/
theorem invariantKept : Obligations.InvariantKept :=
  ⟨fun _ _ => step_keeps_inv, fun _ _ _ => applyMove_keeps_inv⟩

/-- A p1 about to fault is one whose byte is illegal. -/
theorem aboutToFault_iff (s : State) :
    aboutToFault s = true ↔ s.phase = .p1 ∧ s.byteAt .text s.mar ∈ illegalOpcodes := by
  simp [aboutToFault]

/-- Settles O16: p0 always goes on, p1 where its byte decodes, and an execute phase where IR holds an instruction. -/
theorem stepGoesOnUnlessAboutToFault : Obligations.StepGoesOnUnlessAboutToFault := by
  rintro s ⟨_, hir⟩ hnoFault
  have hexec (hp : isExecutePhase s.phase = true) : ∃ t, step s = .next t := by
    obtain ⟨i, hi⟩ := Option.isSome_iff_exists.mp (hir hp)
    exact ⟨_, step_of_exec hp hi⟩
  rcases phase_cases s.phase with hp | hp | hp | hp | hp
  · exact ⟨_, step_of_p0 hp⟩
  · have hlegal : ¬ s.byteAt .text s.mar ∈ illegalOpcodes := fun hillegal => by
      rw [(aboutToFault_iff s).mpr ⟨hp, hillegal⟩] at hnoFault
      cases hnoFault
    obtain ⟨i, hdecode⟩ := exists_instr_of_legal bcondDefault hlegal
    exact ⟨_, step_of_p1 hp hdecode⟩
  all_goals exact hexec (by rw [hp]; rfl)

/-- A constructed state meets the invariant: its images end inside memory, and it stands at p0. -/
theorem construct_inv {program data : List Byte} {s : State} (h : construct program data = .state s) : Inv s := by
  rcases construct_cases program data with ⟨hprogram, hdata, hc⟩ | ⟨_, hc⟩ | ⟨_, _, hc⟩ <;> rw [hc] at h <;> cases h
  simp only [imageFits, decide_eq_true_eq] at hprogram hdata
  have htext : Memory.wf (placeImage (segmentBase .text) program State.reset.mem) = true :=
    placeImage_wf program reset_mem_wf (by simp only [segmentBase, Memory.size]; omega)
  have hmem : Memory.wf (State.loaded program data).mem = true :=
    placeImage_wf data htext (by simp only [segmentBase, Memory.size]; omega)
  exact ⟨hmem, fun hexec => by cases hexec⟩

/-- Every event of a session keeps the invariant. -/
theorem happen_keeps_inv {e : Event} {s t : State} (hinv : Inv s) (h : happen e s = .next t) : Inv t := by
  cases e with
  | step => exact step_keeps_inv hinv h
  | host m => exact applyMove_keeps_inv hinv h

/-- Every session keeps the invariant. -/
theorem runSession_keeps_inv {es : List Event} {s t : State} (hinv : Inv s) (h : runSession es s = .next t) : Inv t := by
  induction es generalizing s with
  | nil => cases h; exact hinv
  | cons e es ih =>
    unfold runSession at h
    split at h
    · next u hu => exact ih (happen_keeps_inv hinv hu) h
    · cases h
    · cases h

/-- Under the invariant no step is refused: it goes on, or it is the p1 that raises. -/
theorem step_ne_refused_of_inv {s : State} (hinv : Inv s) (r : Refusal) : step s ≠ .refused r := by
  cases hfault : aboutToFault s with
  | true =>
    obtain ⟨hp, hillegal⟩ := (aboutToFault_iff s).mp hfault
    rw [step_of_p1_illegal hp hillegal]
    exact nofun
  | false =>
    obtain ⟨t, ht⟩ := stepGoesOnUnlessAboutToFault s hinv hfault
    rw [ht]
    exact nofun

/-- Settles O19: construction meets the invariant, a session keeps it, and it excludes every refusal. -/
theorem reachableStatesNeverRefused : Obligations.ReachableStatesNeverRefused := by
  rintro t ⟨program, data, s, es, hconstruct, hsession⟩
  have hinv : Inv t := runSession_keeps_inv (construct_inv hconstruct) hsession
  exact ⟨hinv, step_ne_refused_of_inv hinv⟩

end Sys2Proof.Machine
end

section
/-! The instruction cycle (`41_phase_engine.md` R131, R139): its three execute phases run one after the other, and what they
leave for each shape of instruction is the description without phases. -/

namespace Sys2Proof.Machine

/-- The execute phases one after the other, each with its phase advance (`41_phase_engine.md` R134, R135). -/
def PhaseEffects.executed (e : PhaseEffects) (s : State) : State :=
  (e.p4 (e.p3 (e.p2 s).advance).advance).advance

/-- Runs go one after the other. -/
theorem stepTimes_add {m : Nat} {s t : State} (h : stepTimes m s = .next t) (n : Nat) :
    stepTimes (m + n) s = stepTimes n t := by
  induction m generalizing s with
  | zero => cases h; rw [Nat.zero_add]
  | succ m ih =>
    obtain ⟨u, hstep, hrun⟩ := stepTimes_succ_next h
    rw [Nat.succ_add, stepTimes, hstep]
    exact ih hrun

/-- An execute phase run forward, with what the next phase needs of the state it leaves. -/
theorem step_execute {s : State} {i : Instr} (hp : isExecutePhase s.phase = true) (hir : s.ir = some i) :
    ∃ t, t = ((variantEffects Params.standard i.variant).during s.phase s).advance ∧ step s = .next t ∧
      t.phase = nextPhase s.phase ∧ t.ir = some i := by
  have hstep := step_of_exec hp hir
  have hp1 : s.phase ≠ .p1 := fun h => by simp [h, isExecutePhase] at hp
  exact ⟨_, rfl, hstep, step_next_phase hstep, (step_next_ir hstep hp1).trans hir⟩

/-- Three steps from p2 run the three execute phases of the instruction in IR. -/
theorem stepTimes_three_executed {s : State} {i : Instr} (hp : s.phase = .p2) (hir : s.ir = some i) :
    stepTimes 3 s = .next ((variantEffects Params.standard i.variant).executed s) := by
  obtain ⟨t, ht, hstep2, hp3, hir3⟩ := step_execute (by rw [hp]; rfl) hir
  rw [hp] at ht hp3
  obtain ⟨u, hu, hstep3, hp4, hir4⟩ := step_execute (by rw [hp3]; rfl) hir3
  rw [hp3] at hu hp4
  obtain ⟨v, hv, hstep4, _, _⟩ := step_execute (by rw [hp4]; rfl) hir4
  rw [hp4] at hv
  simp only [stepTimes, hstep2, hstep3, hstep4]
  subst hv hu ht
  rfl

/-- HLT's three execute phases each change the phase alone (`42_control_io.md` R151). -/
theorem exec_hlt {s : State} (hp : isExecutePhase s.phase = true) : exec .hlt s = .next s.advance := by
  rw [exec_eq_variantEffects]
  rcases executePhase_cases hp with h | h | h
  · exact performWith_p2 h
  · exact performWith_p3 h
  · exact performWith_p4 h

/-- Settles O13: HLT idles through its three phases back to p0, where `step_of_p0` takes no notice of the IR it left. -/
theorem haltSignalsAndResumes : Obligations.HaltSignalsAndResumes := by
  have hadvance {s : State} {p : Phase} (hp : s.phase = p) (hexec : isExecutePhase p = true) :
      exec .hlt s = .next { s with phase := nextPhase p } := by
    subst hp
    exact exec_hlt hexec
  refine ⟨signal_eq_halt_iff, fun _ hp => hadvance hp rfl, fun _ hp => hadvance hp rfl, fun _ hp => hadvance hp rfl, ?_⟩
  intro s hp hir
  have hexecuted : idleEffects.executed s = { s with phase := .p0 } := by
    simp only [PhaseEffects.executed, idleEffects, noEffect, State.advance, hp, nextPhase]
  have hthree : stepTimes 3 s = .next { s with phase := .p0 } :=
    (stepTimes_three_executed hp hir).trans (congrArg _ hexecuted)
  rw [stepTimes_add hthree 1, stepTimes, step_of_p0 rfl]
  rfl

/-- The state after the two fetch phases of an instruction (`41_phase_engine.md` R132, R133). -/
def State.fetched (s : State) (i : Instr) : State := { s.fetchAddress with ir := some i, phase := .p2 }

/-- Five steps from p0 are the two fetch phases and the three execute phases of the instruction at PC. -/
theorem stepTimes_five {s : State} {i : Instr} (hp : s.phase = .p0) (hdecode : decode (s.byteAt .text s.pc) = .instr i) :
    stepTimes 5 s = .next ((variantEffects Params.standard i.variant).executed (s.fetched i)) :=
  (stepTimes_add (stepTimes_two_fetch hp hdecode) 3).trans (stepTimes_three_executed rfl rfl)

/-- The cycle of a one-byte instruction moves PC by p0's fetch alone (`30_encoding.md` R73). -/
theorem State.movedPast_oneByte {i : Instr} (h : i.variant.hasOperandByte = false) (s : State) (a : Byte) :
    s.movedPast i a = { s.fetchAddress with ir := some i, mar := a } := by
  have hlen : i.length = 1 := by simp [Instr.length, h]
  simp only [State.movedPast, State.fetchAddress, hlen]

/-- The cycle of a two-byte instruction moves PC by p0's fetch and the operand-byte fetch (`30_encoding.md` R73, R74). -/
theorem State.movedPast_twoBytes {i : Instr} (h : i.variant.hasOperandByte = true) (s : State) (a : Byte) :
    s.movedPast i a = { s.fetchAddress.fetchAddress with ir := some i, mar := a } := by
  have hpc : s.pc + BitVec.ofNat 8 2 = s.pc + 1#8 + 1#8 := by rw [BitVec.add_assoc]; rfl
  simp only [State.movedPast, State.fetchAddress, length_eq_two_of_hasOperandByte h, hpc]

/-- The cycle without phases leaves PHASE, which five advances have brought back to p0. -/
theorem cycleEffect_phase (i : Instr) (s : State) : (cycleEffect i s).phase = s.phase := by
  unfold cycleEffect
  cases i.variant with
  | b c => dsimp only; split <;> rfl
  | _ => simp

/-- The compute phase under the default parameters (`45_binary_ops.md` R220, R223). -/
theorem computeInto_standard (op : BinOp) (r : Reg) (x : Byte) (s : State) :
    computeInto Params.standard op r x s = s.withResult r (compute .signed op (s.reg r) x s.flags) := rfl

section
variable {i : Instr} (s : State)

theorem branch_executed {c : Cond} (hv : i.variant = .b c) :
    (branchEffects c).executed (s.fetched i) = { cycleEffect i s with phase := .p0 } := by
  simp only [cycleEffect, hv]
  rw [State.movedPast_twoBytes (by rw [hv]; rfl)]
  cases hcond : condHolds c s.flags s.ibuf.ready s.obuf.ready <;>
    simp [PhaseEffects.executed, branchEffects, State.fetched, hcond, State.advance, nextPhase, noEffect, operandByte,
      State.byteAt]

theorem shift_executed {r : Reg} {m : ShiftMode} (hv : i.variant = .sh r m) :
    (shiftEffects r m).executed (s.fetched i) = { cycleEffect i s with phase := .p0 } := by
  simp only [cycleEffect, hv]
  rw [State.movedPast_oneByte (by rw [hv]; rfl)]
  cases r <;> rfl

theorem rotate_executed {r : Reg} {m : ShiftMode} (hv : i.variant = .rot r m) :
    (rotateEffects r m).executed (s.fetched i) = { cycleEffect i s with phase := .p0 } := by
  simp only [cycleEffect, hv]
  rw [State.movedPast_oneByte (by rw [hv]; rfl)]
  cases r <;> rfl

/-- p2 of an instruction with an operand byte, from the fetched state: MAR addresses the operand byte
(`41_phase_engine.md` R137). -/
theorem fetched_operand (h : i.variant.hasOperandByte = true) :
    (s.fetched i).fetchAddress.advance = { s.movedPast i (s.pc + 1#8) with phase := .p3 } := by
  rw [State.movedPast_twoBytes h]
  rfl

/-- p2 and p3 of an absolute mode leave MAR at the effective address (`44_load_store.md` R200, R203). -/
theorem fetched_absolute (h : i.variant.hasOperandByte = true) :
    (resolveAbsolute (s.fetched i).fetchAddress.advance).advance =
      { s.movedPast i (operandByte s) with phase := .p4 } := by
  rw [fetched_operand s h]
  rfl

/-- p2 and p3 of a relative mode leave MAR at the effective address (`44_load_store.md` R200, R203). -/
theorem fetched_relative (h : i.variant.hasOperandByte = true) :
    (resolveRelative (s.fetched i).fetchAddress.advance).advance =
      { s.movedPast i (s.ix + operandByte s) with phase := .p4 } := by
  rw [fetched_operand s h]
  rfl

theorem load_executed {r : Reg} {m : LoadMode} (hv : i.variant = .ld r m) :
    (loadEffects r m).executed (s.fetched i) = { cycleEffect i s with phase := .p0 } := by
  have hbyte : m.isDirect = false → i.variant.hasOperandByte = true := fun h => by simp [hv, Variant.hasOperandByte, h]
  simp only [cycleEffect, hv, PhaseEffects.executed, loadEffects]
  cases m with
  | accd | ixd => rw [State.movedPast_oneByte (by rw [hv]; rfl)]; cases r <;> rfl
  | imm => rw [fetched_operand s (hbyte rfl)]; cases r <;> rfl
  | abst | absd => rw [fetched_absolute s (hbyte rfl)]; cases r <;> rfl
  | relt | reld => rw [fetched_relative s (hbyte rfl)]; cases r <;> rfl

theorem store_executed {r : Reg} {m : StoreMode} (hv : i.variant = .st r m) :
    (storeEffects r m).executed (s.fetched i) = { cycleEffect i s with phase := .p0 } := by
  have hbyte : i.variant.hasOperandByte = true := by rw [hv]; rfl
  simp only [cycleEffect, hv, PhaseEffects.executed, storeEffects]
  cases m with
  | abst | absd => rw [fetched_absolute s hbyte]; cases r <;> rfl
  | relt | reld => rw [fetched_relative s hbyte]; cases r <;> rfl

theorem binary_executed {op : BinOp} {r : Reg} {m : LoadMode} (hv : i.variant = .bin op r m) :
    (binaryEffects Params.standard op r m).executed (s.fetched i) = { cycleEffect i s with phase := .p0 } := by
  have hbyte : m.isDirect = false → i.variant.hasOperandByte = true := fun h => by simp [hv, Variant.hasOperandByte, h]
  simp only [cycleEffect, hv, PhaseEffects.executed, binaryEffects, computeInto_standard]
  generalize compute .signed op = unit
  cases m with
  | accd | ixd => rw [State.movedPast_oneByte (by rw [hv]; rfl)]; cases r <;> rfl
  | imm => rw [fetched_operand s (hbyte rfl)]; cases r <;> rfl
  | abst | absd => rw [fetched_absolute s (hbyte rfl)]; cases r <;> rfl
  | relt | reld => rw [fetched_relative s (hbyte rfl)]; cases r <;> rfl

/-- For every row of the table of `41_phase_engine.md` R139 the three execute phases compute the cycle's effect. -/
theorem variantEffects_executed (i : Instr) :
    (variantEffects Params.standard i.variant).executed (s.fetched i) = { cycleEffect i s with phase := .p0 } := by
  cases hv : i.variant with
  | nop | hlt | out | inp | rcf | scf =>
    simp only [cycleEffect, hv]
    rw [State.movedPast_oneByte (by rw [hv]; rfl)]
    rfl
  | b c => exact branch_executed s hv
  | sh r m => exact shift_executed s hv
  | rot r m => exact rotate_executed s hv
  | ld r m => exact load_executed s hv
  | st r m => exact store_executed s hv
  | bin op r m => exact binary_executed s hv

end

/-- Settles O54: the fetch, the row of the instruction at PC, and the phase back at p0. -/
theorem fiveStepsComputeInstruction : Obligations.FiveStepsComputeInstruction := by
  intro s i hp hdecode
  have hphase : { cycleEffect i s with phase := .p0 } = cycleEffect i s := by rw [← hp, ← cycleEffect_phase i s]
  rw [stepTimes_five hp hdecode, variantEffects_executed, hphase]

end Sys2Proof.Machine
end

section
/-! The control, flag, input/output and branch instructions (`42_control_io.md` R150 to R174): an instruction run in each of
its execute phases with the phase it leaves, and the branch predicates read as propositions on the flags and ready bits. -/

namespace Sys2Proof.Machine

/-- The phase advance after an effect that leaves PHASE (`41_phase_engine.md` R135). -/
theorem advance_eq_of_phase_kept {s u : State} {ph : Phase} (hp : s.phase = ph) (hkept : u.phase = s.phase) :
    u.advance = { u with phase := nextPhase ph } := by
  rw [State.advance, hkept, hp]

section
variable (i : Instr) {s : State}

theorem exec_of_p2 (hp : s.phase = .p2) :
    exec i s = .next { (variantEffects Params.standard i.variant).p2 s with phase := .p3 } := by
  obtain ⟨⟨_, hkept⟩, _, _⟩ := variantEffects_keepsIrPhase Params.standard i.variant s
  rw [exec_eq_variantEffects, performWith_p2 hp, advance_eq_of_phase_kept hp hkept]; rfl

theorem exec_of_p3 (hp : s.phase = .p3) :
    exec i s = .next { (variantEffects Params.standard i.variant).p3 s with phase := .p4 } := by
  obtain ⟨_, ⟨_, hkept⟩, _⟩ := variantEffects_keepsIrPhase Params.standard i.variant s
  rw [exec_eq_variantEffects, performWith_p3 hp, advance_eq_of_phase_kept hp hkept]; rfl

theorem exec_of_p4 (hp : s.phase = .p4) :
    exec i s = .next { (variantEffects Params.standard i.variant).p4 s with phase := .p0 } := by
  obtain ⟨_, _, _, hkept⟩ := variantEffects_keepsIrPhase Params.standard i.variant s
  rw [exec_eq_variantEffects, performWith_p4 hp, advance_eq_of_phase_kept hp hkept]; rfl

end

/-- No instruction but HLT signals Halt (`41_phase_engine.md` R138). -/
theorem signal_of_ir_ne_hlt {s : State} (h : s.ir ≠ some .hlt) : signal s = .cont := by
  cases hsig : signal s with
  | cont => rfl
  | halt => exact absurd ((signal_eq_halt_iff s).mp hsig).2 h

/-- Settles O30: the row of NOP has no effect in any execute phase. -/
theorem noOpHasNoEffect : Obligations.NoOpHasNoEffect := fun s =>
  ⟨exec_of_p2 .nop, exec_of_p3 .nop, exec_of_p4 .nop, fun hir => signal_of_ir_ne_hlt (by simp [hir]),
    fun ignored => (EncodingRow.nop ignored).decodeWith_eq, rfl⟩

/-- Settles O31: the row of OUT writes OBUF.value at p2 and OBUF.ready at p3. -/
theorem outputPhases : Obligations.OutputPhases := fun _ =>
  ⟨exec_of_p2 .out, exec_of_p3 .out, exec_of_p4 .out, fun ignored => (EncodingRow.out ignored).decodeWith_eq, rfl⟩

/-- Settles O32: the row of IN writes ACC at p2 and IBUF.ready at p3. -/
theorem inputPhases : Obligations.InputPhases := fun _ =>
  ⟨exec_of_p2 .inp, exec_of_p3 .inp, exec_of_p4 .inp, fun ignored => (EncodingRow.inp ignored).decodeWith_eq, rfl⟩

/-- Settles O33: the rows of RCF and SCF write CF at p2 and nothing after. -/
theorem carryInstructionPhases : Obligations.CarryInstructionPhases := fun _ =>
  ⟨fun hp => ⟨exec_of_p2 .rcf hp, exec_of_p2 .scf hp⟩, fun hp => ⟨exec_of_p3 .rcf hp, exec_of_p3 .scf hp⟩,
    fun hp => ⟨exec_of_p4 .rcf hp, exec_of_p4 .scf hp⟩,
    fun ignored => ⟨(EncodingRow.rcf ignored).decodeWith_eq, (EncodingRow.scf ignored).decodeWith_eq⟩, rfl, rfl⟩

section
variable (c : Cond)

theorem variant_condToInstr : c.toInstr.variant = .b c := (Variant.b c).variant_toInstr

variable {s : State}

/-- p3 of a branch: the jump where the condition holds, else nothing (`42_control_io.md` R157). -/
theorem exec_branch_p3 (hp : s.phase = .p3) :
    exec c.toInstr s = .next
      (if condHolds c s.flags s.ibuf.ready s.obuf.ready = true
        then { s with pc := s.byteAt .text s.mar, phase := .p4 } else { s with phase := .p4 }) := by
  rw [exec_of_p3 _ hp, variant_condToInstr]
  simp only [variantEffects, branchEffects]
  split <;> rfl

theorem exec_branch_taken (hp : s.phase = .p3) (h : condHolds c s.flags s.ibuf.ready s.obuf.ready = true) :
    exec c.toInstr s = .next { s with pc := s.byteAt .text s.mar, phase := .p4 } := by
  rw [exec_branch_p3 c hp, if_pos h]

theorem exec_branch_not_taken (hp : s.phase = .p3) (h : condHolds c s.flags s.ibuf.ready s.obuf.ready = false) :
    exec c.toInstr s = .next { s with phase := .p4 } := by
  rw [exec_branch_p3 c hp, if_neg (by simp [h])]

end

/-- Settles O34: the row of the branches, whose p3 is `exec_branch_p3`. -/
theorem branchPhases : Obligations.BranchPhases := by
  intro c s
  refine ⟨fun hp => ?_, exec_branch_taken c, exec_branch_not_taken c, fun hp => ?_, ?_, ?_⟩
  · rw [exec_of_p2 _ hp, variant_condToInstr]; rfl
  · rw [exec_of_p4 _ hp, variant_condToInstr]; rfl
  · exact length_eq_two_of_hasOperandByte (by rw [variant_condToInstr]; rfl)
  · rintro m code rfl
    exact (EncodingRow.branch code).decodeWith_eq

/-- What a branch tests, in the words of its rule (`42_control_io.md` R158 to R173; D8 and log 11 for the two buffers). -/
def CondTests (c : Cond) (f : Flags) (inputReady outputReady : Bool) : Prop :=
  match c with
  | .always => True
  | .overflow => f.vf = true
  | .notZero => f.zf = false
  | .zero => f.zf = true
  | .notNegative => f.nf = false
  | .negative => f.nf = true
  | .positive => f.nf = false ∧ f.zf = false
  | .zeroOrNegative => f.zf = true ∨ f.nf = true
  | .inputEmpty => inputReady = false
  | .outputEmpty => outputReady = false
  | .carryClear => f.cf = false
  | .carrySet => f.cf = true
  | .signedGe => f.vf = f.nf
  | .signedLt => f.vf ≠ f.nf
  | .signedGt => f.vf = f.nf ∧ f.zf = false
  | .signedLe => f.vf ≠ f.nf ∨ f.zf = true

theorem condHolds_iff_tests (c : Cond) (f : Flags) (inputReady outputReady : Bool) :
    condHolds c f inputReady outputReady = true ↔ CondTests c f inputReady outputReady := by
  cases c <;> simp [condHolds, CondTests]

/-- p3 of a branch with the test of its rule; how the test is decided is left to the statement that uses it. -/
theorem exec_branch_p3_tests (c : Cond) {s jump stay : State} (hp : s.phase = .p3)
    (hjump : jump = { s with pc := s.byteAt .text s.mar, phase := .p4 }) (hstay : stay = { s with phase := .p4 })
    {_ : Decidable (CondTests c s.flags s.ibuf.ready s.obuf.ready)} :
    exec c.toInstr s = .next (if CondTests c s.flags s.ibuf.ready s.obuf.ready then jump else stay) := by
  rw [exec_branch_p3 c hp, hjump, hstay, if_congr (condHolds_iff_tests c _ _ _) rfl rfl]

/-- Settles O35: `exec_branch_p3_tests` of the fourteen conditions on flags, and the bytes the encoder writes for them. -/
theorem flagBranchPredicates : Obligations.FlagBranchPredicates := by
  intro s jump stay hp hjump hstay
  exact ⟨by rw [hjump]; exact exec_branch_taken .always hp rfl, exec_branch_p3_tests .overflow hp hjump hstay,
    exec_branch_p3_tests .notZero hp hjump hstay, exec_branch_p3_tests .zero hp hjump hstay,
    exec_branch_p3_tests .notNegative hp hjump hstay, exec_branch_p3_tests .negative hp hjump hstay,
    exec_branch_p3_tests .positive hp hjump hstay, exec_branch_p3_tests .zeroOrNegative hp hjump hstay,
    exec_branch_p3_tests .carryClear hp hjump hstay, exec_branch_p3_tests .carrySet hp hjump hstay,
    exec_branch_p3_tests .signedGe hp hjump hstay, exec_branch_p3_tests .signedLt hp hjump hstay,
    exec_branch_p3_tests .signedGt hp hjump hstay, exec_branch_p3_tests .signedLe hp hjump hstay,
    decode_encodeOpcode .ba, decode_encodeOpcode .bvf, decode_encodeOpcode .bnz, decode_encodeOpcode .bz,
    decode_encodeOpcode .bzp, decode_encodeOpcode .bn, decode_encodeOpcode .bp, decode_encodeOpcode .bzn,
    decode_encodeOpcode .bnc, decode_encodeOpcode .bc, decode_encodeOpcode .bge, decode_encodeOpcode .blt,
    decode_encodeOpcode .bgt, decode_encodeOpcode .ble⟩

/-- Settles O36: `exec_branch_p3_tests` of the two conditions on buffers, and the bytes the encoder writes for them. -/
theorem handshakeBranchPredicates : Obligations.HandshakeBranchPredicates := fun _ _ _ hp hjump hstay =>
  ⟨exec_branch_p3_tests .inputEmpty hp hjump hstay, exec_branch_p3_tests .outputEmpty hp hjump hstay,
    decode_encodeOpcode .bni, decode_encodeOpcode .bno⟩

/-- NF as the sign of the two's-complement reading (`40_alu.md` R111). -/
theorem negativeFlag_eq_decide (v : Byte) : negativeFlag v = decide (s8 v < 0) := by
  rw [negativeFlag, ← BitVec.msb_eq_toInt]; rfl

/-- From two positive inputs the addition-shaped overflow test asks only for a negative result (`40_alu.md` R109). -/
theorem overflowFlag_of_pos {b o : Byte} (hb : s8 b > 0) (ho : s8 o > 0) (result : Byte) :
    overflowFlag b o result = decide (s8 result < 0) := by
  have hnot : ¬ s8 b < 0 := by omega
  simp [overflowFlag, hb, ho, hnot]

/-- Settles O53: after CMP of two positive numbers VF and NF both say that the difference is negative, whatever it is. -/
theorem signedBranchAfterCompareOfPositives : Obligations.SignedBranchAfterCompareOfPositives := by
  intro wd b o f i q hb ho
  have hsame : (compute wd .cmp b o f).2.vf = (compute wd .cmp b o f).2.nf := by
    rw [compute_flags]
    exact (overflowFlag_of_pos hb ho _).trans (negativeFlag_eq_decide _).symm
  have hge : condHolds .signedGe (compute wd .cmp b o f).2 i q = true := (condHolds_iff_tests .signedGe _ i q).mpr hsame
  have hlt : ¬ condHolds .signedLt (compute wd .cmp b o f).2 i q = true :=
    fun h => (condHolds_iff_tests .signedLt _ i q).mp h hsame
  exact ⟨Bool.eq_false_of_not_eq_true hlt, hge⟩

end Sys2Proof.Machine
end

section
/-! The shifts and rotates as instructions (`43_shift_rotate.md` R180 to R188): the moves of a byte as word operations, and
the three execute phases of the two rows, once for every mode. -/

namespace Sys2Proof.Machine

section
variable {v x : Byte} {top low : Bool}

/-- A byte with the bits of the move down is the move down. -/
theorem moveDown_eq_of_bits (h7 : x.getLsbD 7 = top) (hbit : ∀ i < 7, x.getLsbD i = v.getLsbD (i + 1)) :
    moveDown top v = x := by
  refine BitVec.eq_of_getLsbD_eq fun i hi => ?_
  obtain rfl | hlt : i = 7 ∨ i < 7 := by omega
  · rw [moveDown_bit7, h7]
  · rw [moveDown_bit _ _ hlt, hbit i hlt]

/-- A byte with the bits of the move up is the move up. -/
theorem moveUp_eq_of_bits (h0 : x.getLsbD 0 = low) (hbit : ∀ i < 7, x.getLsbD (i + 1) = v.getLsbD i) :
    moveUp low v = x := by
  refine BitVec.eq_of_getLsbD_eq fun i hi => ?_
  cases i with
  | zero => rw [moveUp_bit0, h0]
  | succ i => rw [moveUp_bit_succ _ _ (by omega), hbit i (by omega)]

end

section
variable (v : Byte)

/-- The top bit comes in through an OR with 0x80 (`40_alu.md` R121). -/
theorem moveDown_eq_or (top : Bool) : moveDown top v = v >>> 1 ||| (if top = true then 0x80#8 else 0x00#8) := by
  refine moveDown_eq_of_bits ?_ fun i hi => ?_
  · cases top <;> simp
  · have h80 : (0x80#8).getLsbD i = false := by interval_cases i <;> rfl
    cases top <;> simp [h80, Nat.add_comm]

/-- The low bit comes in through an OR with 0x01 (`40_alu.md` R122). -/
theorem moveUp_eq_or (low : Bool) : moveUp low v = v <<< 1 ||| (if low = true then 0x01#8 else 0x00#8) := by
  refine moveUp_eq_of_bits ?_ fun i hi => ?_
  · cases low <;> simp
  · have hlast : i + 1 < 8 := by omega
    cases low <;> simp [hlast, BitVec.getLsbD_eq_getElem (Nat.lt_succ_of_lt hi)]

theorem moveDown_false_eq_ushiftRight : moveDown false v = v >>> 1 := by simp [moveDown_eq_or]

theorem moveUp_false_eq_shiftLeft : moveUp false v = v <<< 1 := by simp [moveUp_eq_or]

theorem moveDown_bit7_eq_sshiftRight : moveDown (v.getLsbD 7) v = v.sshiftRight 1 := by
  refine moveDown_eq_of_bits ?_ fun i hi => ?_
  · rw [BitVec.getLsbD_sshiftRight]; rfl
  · have hlast : 1 + i < 8 := by omega
    have hin : ¬ 8 ≤ i := by omega
    rw [BitVec.getLsbD_sshiftRight, if_pos hlast, decide_eq_false hin, Nat.add_comm]; rfl

theorem moveDown_bit0_eq_rotateRight : moveDown (v.getLsbD 0) v = v.rotateRight 1 := by
  refine moveDown_eq_of_bits ?_ fun i hi => ?_
  · simp
  · simp [BitVec.getLsbD_rotateRight, hi, Nat.add_comm]

theorem moveUp_bit7_eq_rotateLeft : moveUp (v.getLsbD 7) v = v.rotateLeft 1 := by
  refine moveUp_eq_of_bits ?_ fun i hi => ?_
  · simp
  · have hlast : i + 1 < 8 := by omega
    simp [hlast, BitVec.getLsbD_eq_getElem (Nat.lt_succ_of_lt hi)]

/-- The left-arithmetic shift as the sign bit kept beside the seven low bits of the move up (`40_alu.md` R117). -/
theorem shift_la_eq_or : shift v .la = (v &&& 0x80#8 ||| v <<< 1 &&& 0x7F#8, v.getLsbD 7) := by
  refine Prod.ext (BitVec.eq_of_getLsbD_eq fun i hi => ?_) rfl
  obtain rfl | rfl | ⟨j, rfl, hj⟩ : i = 0 ∨ i = 7 ∨ ∃ j, i = j + 1 ∧ j < 6 := by
    rcases i with _ | j
    · exact .inl rfl
    · by_cases hj : j < 6
      · exact .inr (.inr ⟨j, rfl, hj⟩)
      · exact .inr (.inl (by omega))
  · rw [shift_la_bit0]; simp
  · rw [shift_la_bit7]; simp
  · have h80 : (0x80#8).getLsbD (j + 1) = false := by interval_cases j <;> rfl
    have h7F : (0x7F#8).getLsbD (j + 1) = true := by interval_cases j <;> rfl
    rw [shift_la_bit_succ v hj, BitVec.getLsbD_or, BitVec.getLsbD_and, BitVec.getLsbD_and, h80, h7F]
    simp [hi, BitVec.getLsbD_eq_getElem (Nat.lt_of_succ_lt hi)]

end

section
variable (r : Reg) (m : ShiftMode) {s : State} {x : Byte} {c : Bool}

/-- p2 of a shift: the register and CF take the unit's answer (`43_shift_rotate.md` R180). -/
theorem exec_shift_p2 (hp : s.phase = .p2) (hx : shift (s.reg r) m = (x, c)) :
    exec (m.shiftInstr r) s = .next { s.setReg r x with flags := { s.flags with cf := c }, phase := .p3 } := by
  have hv : (m.shiftInstr r).variant = .sh r m := (Variant.sh r m).variant_toInstr
  rw [exec_of_p2 _ hp, hv]
  simp only [variantEffects, shiftEffects, hx]
  rfl

/-- p2 of a rotate: the register and CF take the unit's answer to the carry before the step (`43_shift_rotate.md` R180). -/
theorem exec_rotate_p2 (hp : s.phase = .p2) (hx : rotate (s.reg r) m s.flags.cf = (x, c)) :
    exec (m.rotateInstr r) s = .next { s.setReg r x with flags := { s.flags with cf := c }, phase := .p3 } := by
  have hv : (m.rotateInstr r).variant = .rot r m := (Variant.rot r m).variant_toInstr
  rw [exec_of_p2 _ hp, hv]
  simp only [variantEffects, rotateEffects, hx]
  rfl

variable {r m} {i : Instr}

/-- p3 of a shift or rotate: the three flags of the updated register (`43_shift_rotate.md` R180). -/
theorem exec_shiftOrRotate_p3 (hv : i.variant = .sh r m ∨ i.variant = .rot r m) (hp : s.phase = .p3) :
    exec i s = .next { s with
      flags := { zf := decide (s.reg r = 0#8), nf := (s.reg r).msb, vf := false, cf := s.flags.cf }, phase := .p4 } := by
  rw [exec_of_p3 _ hp]
  rcases hv with hv | hv <;> rw [hv] <;> rfl

/-- p4 of a shift or rotate has no effect (`43_shift_rotate.md` R180). -/
theorem exec_shiftOrRotate_p4 (hv : i.variant = .sh r m ∨ i.variant = .rot r m) (hp : s.phase = .p4) :
    exec i s = .next { s with phase := .p0 } := by
  rw [exec_of_p4 _ hp]
  rcases hv with hv | hv <;> rw [hv] <;> rfl

end

theorem exists_variant_of_mem_shifts {r : Reg} {i : Instr} (h : i ∈ [Instr.sra r, .sla r, .srl r, .sll r]) :
    ∃ m, i.variant = .sh r m := by
  simp only [List.mem_cons, List.not_mem_nil, or_false] at h
  rcases h with rfl | rfl | rfl | rfl
  exacts [⟨.ra, rfl⟩, ⟨.la, rfl⟩, ⟨.rl, rfl⟩, ⟨.ll, rfl⟩]

theorem exists_variant_of_mem_rotates {r : Reg} {i : Instr} (h : i ∈ [Instr.rra r, .rla r, .rrl r, .rll r]) :
    ∃ m, i.variant = .rot r m := by
  simp only [List.mem_cons, List.not_mem_nil, or_false] at h
  rcases h with rfl | rfl | rfl | rfl
  exacts [⟨.ra, rfl⟩, ⟨.la, rfl⟩, ⟨.rl, rfl⟩, ⟨.ll, rfl⟩]

/-- Settles O47: `exec_shift_p2` with the unit's four shifts as word operations, and the bytes the encoder writes. -/
theorem shiftPhases : Obligations.ShiftPhases := by
  rintro r s v rfl
  refine ⟨fun hp => ⟨?_, ?_, ?_, ?_⟩, fun hp i hi => ?_, fun hp i hi => ?_,
    decode_encodeOpcode (.sra .acc), decode_encodeOpcode (.sra .ix), decode_encodeOpcode (.sla .acc),
    decode_encodeOpcode (.sla .ix), decode_encodeOpcode (.srl .acc), decode_encodeOpcode (.srl .ix),
    decode_encodeOpcode (.sll .acc), decode_encodeOpcode (.sll .ix)⟩
  · exact exec_shift_p2 r .ra hp (by rw [shift_ra, moveDown_bit7_eq_sshiftRight])
  · exact exec_shift_p2 r .la hp (shift_la_eq_or _)
  · exact exec_shift_p2 r .rl hp (by rw [shift_rl, moveDown_false_eq_ushiftRight])
  · exact exec_shift_p2 r .ll hp (by rw [shift_ll, moveUp_false_eq_shiftLeft]; rfl)
  · obtain ⟨m, hm⟩ := exists_variant_of_mem_shifts hi
    exact exec_shiftOrRotate_p3 (.inl hm) hp
  · obtain ⟨m, hm⟩ := exists_variant_of_mem_shifts hi
    exact exec_shiftOrRotate_p4 (.inl hm) hp

/-- Settles O48: `exec_rotate_p2` with the unit's four rotates as word operations, and the bytes the encoder writes. -/
theorem rotatePhases : Obligations.RotatePhases := by
  rintro r s v rfl
  refine ⟨fun hp => ⟨?_, ?_, ?_, ?_⟩, fun hp i hi => ?_, fun hp i hi => ?_,
    decode_encodeOpcode (.rra .acc), decode_encodeOpcode (.rra .ix), decode_encodeOpcode (.rla .acc),
    decode_encodeOpcode (.rla .ix), decode_encodeOpcode (.rrl .acc), decode_encodeOpcode (.rrl .ix),
    decode_encodeOpcode (.rll .acc), decode_encodeOpcode (.rll .ix)⟩
  · exact exec_rotate_p2 r .ra hp (by rw [rotate_ra, moveDown_eq_or])
  · exact exec_rotate_p2 r .la hp (by rw [rotate_la, moveUp_eq_or]; rfl)
  · exact exec_rotate_p2 r .rl hp (by rw [rotate_rl, moveDown_bit0_eq_rotateRight])
  · exact exec_rotate_p2 r .ll hp (by rw [rotate_ll, moveUp_bit7_eq_rotateLeft]; rfl)
  · obtain ⟨m, hm⟩ := exists_variant_of_mem_rotates hi
    exact exec_shiftOrRotate_p3 (.inr hm) hp
  · obtain ⟨m, hm⟩ := exists_variant_of_mem_rotates hi
    exact exec_shiftOrRotate_p4 (.inr hm) hp

end Sys2Proof.Machine
end

section
/-! The loads and stores (`44_load_store.md` R200 to R205): the operand fetch and the two address resolutions, once for every
instruction that does them, then the phase in which a load takes its byte and a store writes it. -/

namespace Sys2Proof.Machine

section
variable (p : Params) {v : Variant}

theorem variantEffects_p2_of_hasOperandByte (h : v.hasOperandByte = true) :
    (variantEffects p v).p2 = State.fetchAddress := by
  rcases hasOperandByte_cases h with ⟨c, rfl⟩ | ⟨r, m, rfl⟩ | ⟨r, m, rfl, hacc, hix⟩ | ⟨op, r, m, rfl, hacc, hix⟩
  · rfl
  · rfl
  all_goals
    cases m with
    | accd => exact absurd rfl hacc
    | ixd => exact absurd rfl hix
    | imm | abst | absd | relt | reld => rfl

theorem variantEffects_p3_of_resolvesAbsolute (h : ResolvesAbsolute v) :
    (variantEffects p v).p3 = resolveAbsolute := by
  rcases h with ⟨r, m, rfl, hm⟩ | ⟨r, m, rfl | ⟨op, rfl⟩, hm⟩ <;> rcases hm with rfl | rfl <;> rfl

theorem variantEffects_p3_of_resolvesRelative (h : ResolvesRelative v) :
    (variantEffects p v).p3 = resolveRelative := by
  rcases h with ⟨r, m, rfl, hm⟩ | ⟨r, m, rfl | ⟨op, rfl⟩, hm⟩ <;> rcases hm with rfl | rfl <;> rfl

end

section
variable {i : Instr} {s : State}

/-- p2 of every instruction with an operand byte (`41_phase_engine.md` R137). -/
theorem exec_operandFetch (h : i.variant.hasOperandByte = true) (hp : s.phase = .p2) :
    exec i s = .next { s with mar := s.pc, pc := s.pc + 1#8, phase := .p3 } := by
  rw [exec_of_p2 i hp, variantEffects_p2_of_hasOperandByte _ h]; rfl

/-- p3 of every instruction in an absolute mode (`44_load_store.md` R203). -/
theorem exec_absoluteResolved (h : ResolvesAbsolute i.variant) (hp : s.phase = .p3) :
    exec i s = .next { s with mar := s.byteAt .text s.mar, phase := .p4 } := by
  rw [exec_of_p3 i hp, variantEffects_p3_of_resolvesAbsolute _ h]; rfl

/-- p3 of every instruction in a relative mode (`44_load_store.md` R203). -/
theorem exec_relativeResolved (h : ResolvesRelative i.variant) (hp : s.phase = .p3) :
    exec i s = .next { s with mar := s.ix + s.byteAt .text s.mar, phase := .p4 } := by
  rw [exec_of_p3 i hp, variantEffects_p3_of_resolvesRelative _ h]; rfl

end

section
variable (r : Reg) {s : State}

/-- p4 of a store: the byte at MAR in the mode's segment takes the register's value, and nothing else changes but PHASE
(`44_load_store.md` R205). -/
theorem exec_store_p4 (m : StoreMode) (hp : s.phase = .p4) :
    exec (m.storeInstr r) s = .next { s.storeByte (storeSegment m) s.mar (s.reg r) with phase := .p0 } := by
  have hv : (m.storeInstr r).variant = .st r m := (Variant.st r m).variant_toInstr
  rw [exec_of_p4 _ hp, hv, variantEffects, storeEffects_p4]

/-- The store of p4 read back from canonical memory: its place holds the register's value, every other place what it held. -/
theorem exec_store_p4_reads (m : StoreMode) (hp : s.phase = .p4) (hwf : Memory.wf s.mem = true) :
    ∃ t, exec (m.storeInstr r) s = .next t ∧ t = { s with mem := t.mem, phase := .p0 } ∧
      t.byteAt (storeSegment m) s.mar = s.reg r ∧
      ∀ (g : Segment) (a : Byte), ¬ (g = storeSegment m ∧ a = s.mar) → t.byteAt g a = s.byteAt g a :=
  ⟨_, exec_store_p4 r m hp, rfl, State.byteAt_storeByte_same _ _ _ hwf, fun _ _ => s.byteAt_storeByte_other _⟩

/-- The byte a load takes in the phase that writes its register (`44_load_store.md` R201). -/
def State.loadSource (s : State) : LoadMode → Byte
  | .accd => s.acc
  | .ixd => s.ix
  | .imm | .abst | .relt => s.byteAt .text s.mar
  | .absd | .reld => s.byteAt .data s.mar

/-- A load writes its register, and nothing else but PHASE, at p2 in the direct modes, at p3 in the immediate mode and at p4
in the memory modes (`44_load_store.md` R201). -/
theorem exec_load_takes (m : LoadMode) (hp : s.phase = computePhase m) :
    exec (m.loadInstr r) s =
      .next { s.setReg r (s.loadSource m) with phase := nextPhase (computePhase m) } := by
  cases m with
  | accd | ixd => exact exec_of_p2 _ hp
  | imm => exact exec_of_p3 _ hp
  | abst | absd | relt | reld => exact exec_of_p4 _ hp

end

theorem exists_mode_of_mem_stores {r : Reg} {x : Instr × Segment}
    (h : x ∈ [(Instr.stAbst r, Segment.text), (.stRelt r, .text), (.stAbsd r, .data), (.stReld r, .data)]) :
    ∃ m : StoreMode, x = (m.storeInstr r, storeSegment m) := by
  simp only [List.mem_cons, List.not_mem_nil, or_false] at h
  rcases h with rfl | rfl | rfl | rfl
  exacts [⟨.abst, rfl⟩, ⟨.relt, rfl⟩, ⟨.absd, rfl⟩, ⟨.reld, rfl⟩]

/-- Settles O38: the operand fetch and the address resolutions a store shares with other instructions, the write of
`exec_store_p4_reads` in each mode, and the gap of the class table. -/
theorem storePhases : Obligations.StorePhases := by
  intro r s
  have hbyte : ∀ i ∈ [Instr.stAbst r, .stAbsd r, .stRelt r, .stReld r], i.variant.hasOperandByte = true := by
    simp [Instr.variant, Variant.hasOperandByte]
  have habsolute : ∀ i ∈ [Instr.stAbst r, .stAbsd r], ResolvesAbsolute i.variant := by
    simp [Instr.variant, ResolvesAbsolute]
  have hrelative : ∀ i ∈ [Instr.stRelt r, .stReld r], ResolvesRelative i.variant := by
    simp [Instr.variant, ResolvesRelative]
  refine ⟨fun hp i hi => exec_operandFetch (hbyte i hi) hp,
    fun hp => ⟨fun i hi => exec_absoluteResolved (habsolute i hi) hp,
      fun i hi => exec_relativeResolved (hrelative i hi) hp⟩,
    fun hp hwf x hx => ?_, fun bit _ hn => decodeWith_store_gap bcondDefault bit hn⟩
  obtain ⟨m, rfl⟩ := exists_mode_of_mem_stores hx
  exact exec_store_p4_reads r m hp hwf

/-- Settles O37: `exec_load_takes` in each mode's own phase, the operand fetch and the address resolutions before it, and no
effect after it. -/
theorem loadPhases : Obligations.LoadPhases := by
  intro r s
  have hbyte : ∀ i ∈ [Instr.ldImm r, .ldAbst r, .ldAbsd r, .ldRelt r, .ldReld r], i.variant.hasOperandByte = true := by
    simp [Instr.variant, Variant.hasOperandByte, LoadMode.isDirect]
  have habsolute : ∀ i ∈ [Instr.ldAbst r, .ldAbsd r], ResolvesAbsolute i.variant := by
    simp [Instr.variant, ResolvesAbsolute]
  have hrelative : ∀ i ∈ [Instr.ldRelt r, .ldReld r], ResolvesRelative i.variant := by
    simp [Instr.variant, ResolvesRelative]
  have himm3 (q : Reg) : decode (0x6#4 ++ (q.bit ++ 3#3)) = .instr (.ldImm q) :=
    (EncodingRow.load q .imm 3#3 (.inr ⟨rfl, rfl⟩)).decodeWith_eq
  refine ⟨fun hp => ⟨exec_load_takes r .accd hp, exec_load_takes r .ixd hp,
      fun i hi => exec_operandFetch (hbyte i hi) hp⟩,
    fun hp => ⟨exec_of_p3 (.ldAcc r) hp, exec_of_p3 (.ldIx r) hp, exec_load_takes r .imm hp,
      fun i hi => exec_absoluteResolved (habsolute i hi) hp, fun i hi => exec_relativeResolved (hrelative i hi) hp⟩,
    fun hp => ⟨?_, ?_, ?_⟩,
    decode_encodeOpcode (.ldAcc .acc), decode_encodeOpcode (.ldIx .ix), decode_encodeOpcode (.ldImm .acc), himm3 .acc,
    decode_encodeOpcode (.ldImm .ix), himm3 .ix⟩
  · exact List.forall_mem_cons.mpr ⟨exec_of_p4 (.ldAcc r) hp,
      List.forall_mem_cons.mpr ⟨exec_of_p4 (.ldIx r) hp, List.forall_mem_singleton.mpr (exec_of_p4 (.ldImm r) hp)⟩⟩
  · exact List.forall_mem_cons.mpr ⟨exec_load_takes r .abst hp,
      List.forall_mem_singleton.mpr (exec_load_takes r .relt hp)⟩
  · exact List.forall_mem_cons.mpr ⟨exec_load_takes r .absd hp,
      List.forall_mem_singleton.mpr (exec_load_takes r .reld hp)⟩

end Sys2Proof.Machine
end

section
/-! The binary operations as instructions (`45_binary_ops.md` R220 to R233): where a mode takes its operand from, the one phase
in which it computes, under any setting of the parameters, and the four flags of `compute` as the bytes decide them. -/

namespace Sys2Proof.Machine

/-- The operand of a binary operation in its compute phase, where `g` is the segment the data modes read
(`45_binary_ops.md` R221, R222). -/
def State.binarySource (s : State) (g : Segment) : LoadMode → Byte
  | .accd => s.acc
  | .ixd => s.ix
  | .imm | .abst | .relt => s.byteAt .text s.mar
  | .absd | .reld => s.byteAt g s.mar

section
variable (op : BinOp) (r : Reg) (m : LoadMode)

theorem variant_binaryInstr : (op.binaryInstr r m).variant = .bin op r m := (Variant.bin op r m).variant_toInstr

variable (p : Params) {s : State}

theorem execWith_binary : execWith p (op.binaryInstr r m) s = performWith p (binaryEffects p op r m) s := by
  rw [execWith, variant_binaryInstr, variantEffects]

/-- The write-back of the compute phase with the advance after it (`45_binary_ops.md` R220, R223). -/
theorem computeInto_advance {ph : Phase} (hp : s.phase = ph) (x : Byte) :
    (computeInto p op r x s).advance =
      { s.setReg r (compute p.aluWiden op (s.reg r) x s.flags).1 with
        flags := (compute p.aluWiden op (s.reg r) x s.flags).2, phase := nextPhase ph } :=
  advance_eq_of_phase_kept hp (computeInto_phase p op r x s)

/-- A binary operation writes its register and the flags, and nothing else but PHASE, in the compute phase of its mode
(`45_binary_ops.md` R220). -/
theorem execWith_binary_computes {ph : Phase} {x : Byte} (hp : s.phase = ph) (hm : ph = computePhase m)
    (hx : x = s.binarySource p.binopDataOperandSegment m) :
    execWith p (op.binaryInstr r m) s =
      .next { s.setReg r (compute p.aluWiden op (s.reg r) x s.flags).1 with
        flags := (compute p.aluWiden op (s.reg r) x s.flags).2, phase := nextPhase ph } := by
  subst hm hx
  rw [execWith_binary, ← computeInto_advance op r p hp]
  cases m with
  | accd | ixd => exact performWith_p2 hp
  | imm => exact performWith_p3 hp
  | abst | absd | relt | reld => exact performWith_p4 hp

/-- BINOP_DATA_OPERAND_SEGMENT is read at p4 of the data modes only (`45_binary_ops.md` R222). -/
theorem execWith_binary_segment_irrelevant (g : Segment) (h : s.phase = .p4 → m ≠ .absd ∧ m ≠ .reld) :
    execWith { p with binopDataOperandSegment := g } (op.binaryInstr r m) s = execWith p (op.binaryInstr r m) s := by
  rw [execWith_binary, execWith_binary]
  rcases phase_cases s.phase with hp | hp | hp | hp | hp
  · rw [performWith_p0 hp, performWith_p0 hp]
  · rw [performWith_p1 hp, performWith_p1 hp]; rfl
  · rw [performWith_p2 hp, performWith_p2 hp]; rfl
  · rw [performWith_p3 hp, performWith_p3 hp]; rfl
  · rw [performWith_p4 hp, performWith_p4 hp]
    cases m with
    | absd => exact absurd rfl (h hp).1
    | reld => exact absurd rfl (h hp).2
    | accd | ixd | imm | abst | relt => rfl

end

/-- Settles O39: the operand fetch and the address resolutions a binary operation shares with other instructions, and no
effect of the direct and immediate modes after their compute phase. -/
theorem binaryAddressPhases : Obligations.BinaryAddressPhases := by
  intro op r m s
  have hv := variant_binaryInstr op r m
  refine ⟨fun hp hacc hix => exec_operandFetch ?_ hp, fun hp hm => ?_,
    fun hp hm => exec_absoluteResolved (.inr ⟨r, m, .inr ⟨op, hv⟩, hm⟩) hp,
    fun hp hm => exec_relativeResolved (.inr ⟨r, m, .inr ⟨op, hv⟩, hm⟩) hp, fun hp hm => ?_⟩
  · rw [hv, Variant.hasOperandByte, (isDirect_eq_false_iff m).mpr ⟨hacc, hix⟩]; rfl
  · rw [exec_of_p3 _ hp, hv]
    rcases hm with rfl | rfl <;> rfl
  · rw [exec_of_p4 _ hp, hv]
    rcases hm with rfl | rfl | rfl <;> rfl

section
variable {op : BinOp} {b o result : Byte} {f : Flags}

/-- The overflow rule as one proposition on the signed readings (`40_alu.md` R109). -/
theorem overflowFlag_eq_decide (b o result : Byte) : overflowFlag b o result =
    decide ((s8 b > 0 ∧ s8 o > 0 ∧ s8 result < 0) ∨ (s8 b < 0 ∧ s8 o < 0 ∧ s8 result > 0)) := by
  simp [overflowFlag, Bool.and_assoc]

theorem trunc8_carryIn (f : Flags) : trunc8 (carryIn f) = if f.cf = true then 1#8 else 0#8 := by
  unfold carryIn
  split <;> rfl

/-- Under signed widening the carry says that the exact value is no unsigned byte (`40_alu.md` R108, R112). -/
theorem CarryWriter.signed_carry {w : Int} (h : CarryWriter (s8 b) (s8 o) (carryIn f) op w) :
    (compute .signed op b o f).2.cf = decide (w < 0 ∨ w > 255) := by
  have hcompute : compute .signed op b o f = (trunc8 w, arithmeticFlags b o (trunc8 w) w) := CarryWriter.compute_eq h
  rw [hcompute]
  exact carryOfWide_eq_decide_of_mem_range (h.mem_range (s8_mem_range b) (s8_mem_range o) (carryIn_mem_range f))

/-- `compute` from its result as byte arithmetic, its overflow and its carry; ZF and NF are the result's
(`40_alu.md` R111). -/
theorem compute_eq_of_parts {wd : AluWiden} {v c : Bool} (hresult : result = byteResult op b o f)
    (hoverflow : overflowOut op b o result = v) (hcarry : (compute wd op b o f).2.cf = c) :
    compute wd op b o f = (result, { zf := decide (result = 0#8), nf := result.msb, vf := v, cf := c }) := by
  have hfst : (compute wd op b o f).1 = result := (compute_result wd op b o f).trans hresult.symm
  refine Prod.ext hfst ?_
  rw [compute_flags, hfst, hoverflow, hcarry]; rfl

end

theorem standard_aluWiden : Params.standard.aluWiden = .signed := rfl

/-- The compute phase under the default parameters, from the three parts of `compute_eq_of_parts`. -/
theorem exec_binary_computes (op : BinOp) {r : Reg} {m : LoadMode} {s : State} {x result : Byte} {v c : Bool}
    (hx : x = match m with | .accd => s.acc | .ixd => s.ix | _ => s.byteAt .text s.mar) (hp : s.phase = computePhase m)
    (hresult : result = byteResult op (s.reg r) x s.flags) (hoverflow : overflowOut op (s.reg r) x result = v)
    (hcarry : (compute .signed op (s.reg r) x s.flags).2.cf = c) :
    exec (op.binaryInstr r m) s = .next { s.setReg r result with
      flags := { zf := decide (result = 0#8), nf := result.msb, vf := v, cf := c }
      phase := nextPhase s.phase } := by
  have hsource : x = s.binarySource .text m := hx.trans (by cases m <;> rfl)
  have hexec := execWith_binary_computes op r m Params.standard rfl hp hsource
  rwa [execWith_standard, standard_aluWiden, compute_eq_of_parts hresult hoverflow hcarry] at hexec

/-- Settles O40: SBC adds the carry to the difference, in the exact value and in the byte. -/
theorem sbcComputePhase : Obligations.SbcComputePhase := by
  intro r m s x res w hp hx hw hres
  refine exec_binary_computes .sbc hx hp ?_ (overflowFlag_eq_decide _ _ _) (CarryWriter.signed_carry ?_)
  · rw [hres, sub_add, ← trunc8_carryIn]; rfl
  · rw [hw, sub_add]; exact .sbc

/-- Settles O41: ADC adds the carry to the sum, in the exact value and in the byte. -/
theorem adcComputePhase : Obligations.AdcComputePhase := by
  intro r m s x res w hp hx hw hres
  refine exec_binary_computes .adc hx hp ?_ (overflowFlag_eq_decide _ _ _) (CarryWriter.signed_carry ?_)
  · rw [hres, add_assoc, ← trunc8_carryIn]; rfl
  · rw [hw, add_assoc]; exact .adc

/-- Settles O42: SUB's register takes the difference modulo 256, its carry is read from the exact difference. -/
theorem subComputePhase : Obligations.SubComputePhase := by
  intro r m s x res w hp hx hw hres
  exact exec_binary_computes .sub hx hp hres (overflowFlag_eq_decide _ _ _) (CarryWriter.signed_carry (hw ▸ .sub))

/-- Settles O43: ADD's register takes the sum modulo 256, its carry is read from the exact sum. -/
theorem addComputePhase : Obligations.AddComputePhase := by
  intro r m s x res w hp hx hw hres
  exact exec_binary_computes .add hx hp hres (overflowFlag_eq_decide _ _ _) (CarryWriter.signed_carry (hw ▸ .add))

/-- Settles O44: the three bitwise operations clear VF and keep CF. -/
theorem logicComputePhase : Obligations.LogicComputePhase := by
  intro r m s x hp hx
  have hcarry (op : BinOp) (hop : op = .eor ∨ op = .or ∨ op = .and) :
      (compute .signed op (s.reg r) x s.flags).2.cf = s.flags.cf := compute_keeps_carry _ _ _ _ (by tauto)
  exact List.forall_mem_cons.mpr ⟨exec_binary_computes .eor hx hp rfl rfl (hcarry .eor (by simp)),
    List.forall_mem_cons.mpr ⟨exec_binary_computes .or hx hp rfl rfl (hcarry .or (by simp)),
      List.forall_mem_singleton.mpr (exec_binary_computes .and hx hp rfl rfl (hcarry .and (by simp)))⟩⟩

/-- Settles O45: CMP writes its difference back and keeps CF. -/
theorem cmpComputePhase : Obligations.CmpComputePhase := by
  intro r m s x res hp hx hres
  exact exec_binary_computes .cmp hx hp hres (overflowFlag_eq_decide _ _ _) (compute_keeps_carry _ _ _ _ (by simp))

/-- Settles O46: the default switch gives the data modes the phase effects of the text modes, and another setting is seen at
p4 of the data modes only. -/
theorem binaryDataModesReadText : Obligations.BinaryDataModesReadText := by
  intro op r s
  refine ⟨?_, ?_, fun hp m hm => ?_, ?_⟩
  · rw [← execWith_standard, ← execWith_standard, execWith_binary, execWith_binary]; rfl
  · rw [← execWith_standard, ← execWith_standard, execWith_binary, execWith_binary]; rfl
  · rw [← execWith_standard]
    simp only [List.mem_cons, List.not_mem_nil, or_false] at hm
    rcases hm with rfl | rfl | rfl | rfl <;> exact execWith_binary_computes op r _ Params.standard hp rfl rfl
  · rintro p _ hdata rfl
    refine ⟨fun m habsd hreld => (execWith_binary_segment_irrelevant op r m p .text fun _ => ⟨habsd, hreld⟩).symm,
      fun m hm => ⟨fun hp => ?_, fun hne =>
        (execWith_binary_segment_irrelevant op r m p .text fun hp => absurd hp hne).symm⟩⟩
    simp only [List.mem_cons, List.not_mem_nil, or_false] at hm
    rcases hm with rfl | rfl <;>
      exact ⟨execWith_binary_computes op r _ p hp rfl (by rw [hdata]; rfl),
        execWith_binary_computes op r _ _ hp rfl rfl⟩

end Sys2Proof.Machine
end

section
/-! Exceptions and the host's moves (`60_exceptions.md` R250 to R261): which step raises, and what a host move writes. -/

namespace Sys2Proof.Machine

/-- Settles O14: `step_fault` leaves only a p1 whose byte does not decode, and `step_of_p1_illegal` is the converse. -/
theorem onlyIllegalOpcodeFetchFaults : Obligations.OnlyIllegalOpcodeFetchFaults := by
  intro s f
  constructor
  · intro h
    obtain ⟨hp, b, hfail, rfl⟩ := step_fault h
    obtain rfl := decodeWith_fail hfail
    exact ⟨hp, mem_illegalOpcodes_of_decodeWith_fail hfail, rfl⟩
  · rintro ⟨hp, hillegal, rfl⟩
    exact step_of_p1_illegal hp hillegal

section
variable (p : Params) (s : State)

/-- Input may be supplied in every state and under every setting (`60_exceptions.md` R259). -/
theorem applyMoveWith_supplyInput (v : Byte) :
    applyMoveWith p (.supplyInput v) s = .next { s with ibuf := { value := v, ready := true } } := rfl

/-- The parameter alone decides whether OBUF.ready may be cleared (`60_exceptions.md` R261). -/
theorem applyMoveWith_clearOutputReady :
    applyMoveWith p .clearOutputReady s =
      if p.hostMayClearObufReady = true then .next { s with obuf := { s.obuf with ready := false } }
      else .refused .hostMoveNotAllowed := rfl

end

/-- Settles O28, by the equation of each host move and the two values of the parameter. -/
theorem hostMovesTouchOnlyTheBuffers : Obligations.HostMovesTouchOnlyTheBuffers := by
  intro p s
  refine ⟨applyMoveWith_supplyInput p s, fun hallowed => ?_, fun hexcluded => ?_⟩
  · rw [applyMoveWith_clearOutputReady, if_pos hallowed]
  · rw [applyMoveWith_clearOutputReady, if_neg (by simp [hexcluded])]

end Sys2Proof.Machine
end

section
/-! Two runs that differ in OBUF.ready (`60_exceptions.md` R261): every phase but p3 of OUT, which sets the bit in both, and
p3 of BNO, which reads it (`42_control_io.md` R167), commutes with replacing the bit. -/

namespace Sys2Proof.Machine

/-- The other run's state: the same but for OBUF.ready. -/
def State.withOutputReady (s : State) (x : Bool) : State := { s with obuf := { value := s.obuf.value, ready := x } }

section
variable (s : State) (x : Bool)

@[simp] theorem State.withOutputReady_acc : (s.withOutputReady x).acc = s.acc := rfl
@[simp] theorem State.withOutputReady_ix : (s.withOutputReady x).ix = s.ix := rfl
@[simp] theorem State.withOutputReady_mar : (s.withOutputReady x).mar = s.mar := rfl
@[simp] theorem State.withOutputReady_flags : (s.withOutputReady x).flags = s.flags := rfl
@[simp] theorem State.withOutputReady_phase : (s.withOutputReady x).phase = s.phase := rfl
@[simp] theorem State.withOutputReady_ibuf : (s.withOutputReady x).ibuf = s.ibuf := rfl
@[simp] theorem State.withOutputReady_obuf_ready : (s.withOutputReady x).obuf.ready = x := rfl
@[simp] theorem State.withOutputReady_reg (r : Reg) : (s.withOutputReady x).reg r = s.reg r := State.reg_congr r rfl rfl
@[simp] theorem State.withOutputReady_byteAt (g : Segment) (a : Byte) :
    (s.withOutputReady x).byteAt g a = s.byteAt g a := rfl

/-! No shared operation sees OBUF. -/

@[simp] theorem State.withOutputReady_fetchAddress :
    (s.withOutputReady x).fetchAddress = s.fetchAddress.withOutputReady x := rfl
@[simp] theorem State.withOutputReady_setReg (r : Reg) (v : Byte) :
    (s.withOutputReady x).setReg r v = (s.setReg r v).withOutputReady x := by cases r <;> rfl
@[simp] theorem State.withOutputReady_storeByte (g : Segment) (a v : Byte) :
    (s.withOutputReady x).storeByte g a v = (s.storeByte g a v).withOutputReady x := rfl
@[simp] theorem resolveAbsolute_withOutputReady :
    resolveAbsolute (s.withOutputReady x) = (resolveAbsolute s).withOutputReady x := rfl
@[simp] theorem resolveRelative_withOutputReady :
    resolveRelative (s.withOutputReady x) = (resolveRelative s).withOutputReady x := rfl
@[simp] theorem takeShifted_withOutputReady (r : Reg) (answer : Byte × Bool) :
    takeShifted r answer (s.withOutputReady x) = (takeShifted r answer s).withOutputReady x := by cases r <;> rfl
@[simp] theorem settleShiftFlags_withOutputReady (r : Reg) :
    settleShiftFlags r (s.withOutputReady x) = (settleShiftFlags r s).withOutputReady x := by cases r <;> rfl
@[simp] theorem computeInto_withOutputReady (p : Params) (op : BinOp) (r : Reg) (v : Byte) :
    computeInto p op r v (s.withOutputReady x) = (computeInto p op r v s).withOutputReady x := by cases r <;> rfl

end

/-- BNO alone tests OBUF.ready (`42_control_io.md` R158 to R173). -/
theorem condHolds_outputReady_irrelevant {c : Cond} (hc : c ≠ .outputEmpty) (f : Flags) (inputReady x y : Bool) :
    condHolds c f inputReady x = condHolds c f inputReady y := by
  cases c with
  | outputEmpty => exact absurd rfl hc
  | _ => rfl

/-- The effect of phase `ph` neither reads nor writes OBUF.ready: it commutes with replacing the bit. -/
def PhaseEffects.PassesOutputReady (e : PhaseEffects) (ph : Phase) : Prop :=
  ∀ (s : State) (x : Bool), e.during ph (s.withOutputReady x) = (e.during ph s).withOutputReady x

section
variable (ph : Phase)

theorem idleEffects_passesOutputReady : idleEffects.PassesOutputReady ph := fun _ _ => by cases ph <;> rfl

theorem inputEffects_passesOutputReady : inputEffects.PassesOutputReady ph := fun _ _ => by cases ph <;> rfl

theorem carryEffects_passesOutputReady (c : Bool) : (carryEffects c).PassesOutputReady ph := fun _ _ => by
  cases ph <;> rfl

theorem branchEffects_passesOutputReady {c : Cond} (hbno : ¬ (ph = .p3 ∧ c = .outputEmpty)) :
    (branchEffects c).PassesOutputReady ph := by
  intro s x
  cases ph with
  | p3 =>
    have hc : c ≠ .outputEmpty := fun hc => hbno ⟨rfl, hc⟩
    have hcond : condHolds c s.flags s.ibuf.ready x = condHolds c s.flags s.ibuf.ready s.obuf.ready :=
      condHolds_outputReady_irrelevant hc _ _ _ _
    simp only [PhaseEffects.during, branchEffects, State.withOutputReady_flags, State.withOutputReady_ibuf,
      State.withOutputReady_obuf_ready, hcond]
    split <;> rfl
  | p0 | p1 | p2 | p4 => rfl

theorem shiftEffects_passesOutputReady (r : Reg) (m : ShiftMode) : (shiftEffects r m).PassesOutputReady ph := by
  intro s x
  cases ph with
  | p2 | p3 => simp [PhaseEffects.during, shiftEffects]
  | p0 | p1 | p4 => rfl

theorem rotateEffects_passesOutputReady (r : Reg) (m : ShiftMode) : (rotateEffects r m).PassesOutputReady ph := by
  intro s x
  cases ph with
  | p2 | p3 => simp [PhaseEffects.during, rotateEffects]
  | p0 | p1 | p4 => rfl

theorem loadEffects_passesOutputReady (r : Reg) (m : LoadMode) : (loadEffects r m).PassesOutputReady ph := by
  intro s x
  cases ph with
  | p0 | p1 => rfl
  | p2 | p3 | p4 => cases m <;> simp [PhaseEffects.during, loadEffects]

theorem storeEffects_passesOutputReady (r : Reg) (m : StoreMode) : (storeEffects r m).PassesOutputReady ph := by
  intro s x
  cases ph with
  | p0 | p1 | p2 => rfl
  | p3 => cases m <;> rfl
  | p4 => simp [PhaseEffects.during, storeEffects_p4]

theorem binaryEffects_passesOutputReady (p : Params) (op : BinOp) (r : Reg) (m : LoadMode) :
    (binaryEffects p op r m).PassesOutputReady ph := by
  intro s x
  cases ph with
  | p0 | p1 => rfl
  | p2 | p3 | p4 => cases m <;> simp [PhaseEffects.during, binaryEffects]

/-- p3 of OUT sets OBUF.ready whatever it was; its other phases pass it on (`42_control_io.md` R153). -/
theorem outputEffects_withOutputReady (s : State) (x : Bool) :
    ∃ y, outputEffects.during ph (s.withOutputReady x) = (outputEffects.during ph s).withOutputReady y := by
  cases ph with
  | p3 => exact ⟨true, rfl⟩
  | p0 | p1 | p2 | p4 => exact ⟨x, rfl⟩

/-- A phase of any row of the table of `41_phase_engine.md` R139 but p3 of BNO, run from two states that differ in
OBUF.ready, leaves two that differ in it at most. -/
theorem during_withOutputReady (p : Params) {v : Variant} (hbno : ¬ (ph = .p3 ∧ v = .b .outputEmpty)) (s : State)
    (x : Bool) :
    ∃ y, (variantEffects p v).during ph (s.withOutputReady x) =
      ((variantEffects p v).during ph s).withOutputReady y := by
  cases v with
  | nop | hlt => exact ⟨x, idleEffects_passesOutputReady ph s x⟩
  | out => exact outputEffects_withOutputReady ph s x
  | inp => exact ⟨x, inputEffects_passesOutputReady ph s x⟩
  | rcf => exact ⟨x, carryEffects_passesOutputReady ph false s x⟩
  | scf => exact ⟨x, carryEffects_passesOutputReady ph true s x⟩
  | b c =>
    have hc : ¬ (ph = .p3 ∧ c = .outputEmpty) := fun ⟨hp3, hc⟩ => hbno ⟨hp3, congrArg _ hc⟩
    exact ⟨x, branchEffects_passesOutputReady ph hc s x⟩
  | sh r m => exact ⟨x, shiftEffects_passesOutputReady ph r m s x⟩
  | rot r m => exact ⟨x, rotateEffects_passesOutputReady ph r m s x⟩
  | ld r m => exact ⟨x, loadEffects_passesOutputReady ph r m s x⟩
  | st r m => exact ⟨x, storeEffects_passesOutputReady ph r m s x⟩
  | bin op r m => exact ⟨x, binaryEffects_passesOutputReady ph p op r m s x⟩

end

/-- Settles O56: the fetch phases copy OBUF unread, and the execute phases are `during_withOutputReady`. -/
theorem outputReadySeenOnlyByBno : Obligations.OutputReadySeenOnlyByBno := by
  intro s t x h hbno
  rcases step_next_during h with ⟨hp, rfl⟩ | ⟨hp, i, hdecode, rfl⟩ | ⟨hp, i, hir, rfl⟩
  · exact ⟨x, step_of_p0 hp⟩
  · exact ⟨x, step_of_p1 hp hdecode⟩
  · have hnotBno : ¬ (s.phase = .p3 ∧ i.variant = .b .outputEmpty) := by
      rintro ⟨hp3, hv⟩
      obtain rfl := instr_eq_toInstr_of_variant_eq hv
      exact hbno ⟨hp3, hir⟩
    obtain ⟨y, hduring⟩ := during_withOutputReady s.phase Params.standard hnotBno s x
    refine ⟨y, (step_of_exec (s := s.withOutputReady x) hp hir).trans ?_⟩
    rw [State.withOutputReady_phase, hduring]
    rfl

end Sys2Proof.Machine
end

section
/-! Construction (`70_reset_and_hazards.md` R270, R271): what memory reads inside and outside a placed image, and what the
constructed state holds in its two segments. -/

namespace Sys2Proof.Machine

/-- Placing an image leaves every address outside it. -/
theorem read_placeImage_outside (image : List Byte) {pa q : Nat} (m : Memory)
    (hq : q < pa ∨ pa + image.length ≤ q) : Memory.read (placeImage pa image m) q = Memory.read m q := by
  induction image generalizing pa m with
  | nil => rfl
  | cons b image ih =>
    rw [List.length_cons] at hq
    calc Memory.read (placeImage (pa + 1) image (Memory.write m pa b)) q
        = Memory.read (Memory.write m pa b) q := ih _ (by omega)
      _ = Memory.read m q := Memory.read_write_other m b (by omega)

/-- From its address on a placed image reads as its bytes, and after them memory reads as before. -/
theorem read_placeImage_add (image : List Byte) {pa : Nat} {m : Memory} (hwf : Memory.wf m = true)
    (fits : pa + image.length ≤ Memory.size) (k : Nat) :
    Memory.read (placeImage pa image m) (pa + k) = image.getD k (Memory.read m (pa + k)) := by
  induction image generalizing pa m k with
  | nil => rfl
  | cons b image ih =>
    rw [List.length_cons] at fits
    cases k with
    | zero =>
      calc Memory.read (placeImage (pa + 1) image (Memory.write m pa b)) pa
          = Memory.read (Memory.write m pa b) pa := read_placeImage_outside image _ (.inl (Nat.lt_succ_self pa))
        _ = b := Memory.read_write_same m pa b hwf
    | succ k =>
      have hwritten : Memory.wf (Memory.write m pa b) = true := Memory.wf_write b hwf (by omega)
      have htail := ih (pa := pa + 1) hwritten (by omega) k
      rwa [Memory.read_write_other m b (by omega), show pa + 1 + k = pa + (k + 1) by omega] at htail

/-- An image placed at the start of a segment reads back there, before what the segment held. -/
theorem read_placeImage_segment {image : List Byte} {m : Memory} (g : Segment) (hwf : Memory.wf m = true)
    (hlen : image.length ≤ 256) (a : Byte) :
    Memory.read (placeImage (segmentBase g) image m) (physical g a) =
      image.getD a.toNat (Memory.read m (physical g a)) := by
  have hend : segmentBase g + image.length ≤ Memory.size := by
    cases g <;> simp only [segmentBase, Memory.size] <;> omega
  exact read_placeImage_add image hwf hend a.toNat

/-- An image of at most 256 bytes stays within its segment. -/
theorem read_placeImage_otherSegment {image : List Byte} (m : Memory) {g g' : Segment} (hg : g' ≠ g)
    (hlen : image.length ≤ 256) (a : Byte) :
    Memory.read (placeImage (segmentBase g) image m) (physical g' a) = Memory.read m (physical g' a) := by
  have hoff : physical g' a < segmentBase g ∨ segmentBase g + image.length ≤ physical g' a := by
    have ha := a.isLt
    cases g <;> cases g' <;> simp only [physical, segmentBase, u8]
    · exact absurd rfl hg
    · exact .inr (by omega)
    · exact .inl (by omega)
    · exact absurd rfl hg
  exact read_placeImage_outside image m hoff

theorem imageFits_iff (image : List Byte) : imageFits image = true ↔ image.length ≤ 256 := decide_eq_true_iff

section
variable {program data : List Byte}

/-- The text segment of a loaded state is the program and then the zero padding (`70_reset_and_hazards.md` R270). -/
theorem State.loaded_byteAt_text (hprogram : program.length ≤ 256) (hdata : data.length ≤ 256) (a : Byte) :
    (State.loaded program data).byteAt .text a = program.getD a.toNat 0x00#8 := by
  calc (State.loaded program data).byteAt .text a
      = Memory.read (placeImage (segmentBase .text) program State.reset.mem) (physical .text a) :=
        read_placeImage_otherSegment (g := .data) (g' := .text) _ nofun hdata a
    _ = program.getD a.toNat 0x00#8 := read_placeImage_segment .text reset_mem_wf hprogram a

/-- The data segment of a loaded state is the data image and then the zero padding (`70_reset_and_hazards.md` R270). -/
theorem State.loaded_byteAt_data (hprogram : program.length ≤ 256) (hdata : data.length ≤ 256) (a : Byte) :
    (State.loaded program data).byteAt .data a = data.getD a.toNat 0x00#8 := by
  have htextEnd : segmentBase .text + program.length ≤ Memory.size := by
    simp only [segmentBase, Memory.size]; omega
  have hpadding : Memory.read (placeImage (segmentBase .text) program State.reset.mem) (physical .data a) = 0x00#8 :=
    read_placeImage_otherSegment (g := .text) (g' := .data) State.reset.mem nofun hprogram a
  have hread := read_placeImage_segment .data (placeImage_wf program reset_mem_wf htextEnd) hdata a
  rwa [hpadding] at hread

/-- Two images that fit are accepted. -/
theorem construct_of_fits (hprogram : program.length ≤ 256) (hdata : data.length ≤ 256) :
    construct program data = .state (State.loaded program data) := by
  rw [construct, if_pos ((imageFits_iff program).mpr hprogram), if_pos ((imageFits_iff data).mpr hdata)]

/-- An image that does not fit is rejected, whichever it is (`70_reset_and_hazards.md` R271). -/
theorem construct_of_too_long (hlong : program.length > 256 ∨ data.length > 256) :
    ∃ e, construct program data = .rejected e := by
  rcases construct_cases program data with ⟨hprogram, hdata, _⟩ | ⟨_, hrejected⟩ | ⟨_, _, hrejected⟩
  · rw [imageFits_iff] at hprogram hdata
    omega
  · exact ⟨_, hrejected⟩
  · exact ⟨_, hrejected⟩

end

/-- Settles O21: what the two segments of a loaded state read, the reset values it keeps, its first step by `step_of_p0`, and
the rejection of a longer image. -/
theorem constructionPlacesOrRejectsImages : Obligations.ConstructionPlacesOrRejectsImages := by
  refine fun program data => ⟨fun hprogram hdata => ?_, construct_of_too_long⟩
  exact ⟨State.loaded program data, construct_of_fits hprogram hdata, State.loaded_byteAt_text hprogram hdata,
    State.loaded_byteAt_data hprogram hdata, rfl, step_of_p0 rfl⟩

end Sys2Proof.Machine
end

section
/-! Words of the spec's encoding tables, each the row of the class table it stands in. -/

namespace Sys2Proof

/-- Settles O5: each word is a row of the class table, with the ignored and field bits the word has. -/
theorem sampleWordsDecode : Obligations.SampleWordsDecode :=
  ⟨(EncodingRow.nop 0b000#3).decodeWith_eq, (EncodingRow.hltClass5 0b0110#4).decodeWith_eq,
    (EncodingRow.out 0b000#3).decodeWith_eq, (EncodingRow.inp 0b000#3).decodeWith_eq,
    (EncodingRow.scf 0b111#3).decodeWith_eq, (EncodingRow.branch 0b0011#4).decodeWith_eq,
    (EncodingRow.branch 0b1000#4).decodeWith_eq, (EncodingRow.shift .ix .la).decodeWith_eq,
    (EncodingRow.rotate .acc .ll).decodeWith_eq, (EncodingRow.load .ix .imm 0b010#3 (.inl rfl)).decodeWith_eq,
    (EncodingRow.load .acc .absd 0b101#3 (.inl rfl)).decodeWith_eq, (EncodingRow.store .acc .reld).decodeWith_eq,
    (EncodingRow.binary .adc .ix .absd 0b101#3 (.inl rfl)).decodeWith_eq,
    (EncodingRow.binary .and .acc .relt 0b110#3 (.inl rfl)).decodeWith_eq,
    (EncodingRow.binary .cmp .ix .imm 0b011#3 (.inr ⟨rfl, rfl⟩)).decodeWith_eq⟩

end Sys2Proof
end
